-- ==== Sys2Proof/Word.lean ====
section
/-! DEFINITION. The widths of the core's values (00_scope.md R5, R6): every one is an unsigned bit vector, and no
instruction reads one as signed. -/

namespace Sys2Proof

/-- A byte: a general register, a timer, a memory cell, the immediate `kk` (R5 `REG_W`, `TIMER_W`; R72). -/
abbrev Byte := BitVec 8

/-- Sixteen bits: an instruction word, `I`, `PC`, a stack entry, `ERRINFO`, `KEYS` (R5 `I_W`, `PC_W`; R26, R37, R38, R70). -/
abbrev Word := BitVec 16

/-- The number of a general register, the fields `x` and `y` (R8, R20): all 16 values name a register. -/
abbrev RegIdx := BitVec 4

/-- The 12-bit address field `nnn` (R8, R72). -/
abbrev Addr := BitVec 12

/-- The 4-bit row count field `n` (R8, R72). -/
abbrev Count := BitVec 4

end Sys2Proof
end

