-- ==== Sys2Proof/Config.lean ====
section
/-! DEFINITION. What is fixed for one machine and is not state: the parameters of 00_scope.md R5, and the free values that
stand for the per-tick inputs `KEYS` and `RND` (10_state.md R38, R39). -/

namespace Sys2Proof

/-- `MEM_SIZE` of R5: 4096 bytes, addresses 0x000 to 0xFFF. -/
def Config.memSize : Nat := 4096

/-- `STACK_DEPTH` of R5. -/
def Config.stackDepth : Nat := 16

/-- `PROG_BASE` of R5: the address of the first program byte and the initial `PC`. -/
def Config.progBase : Nat := 0x200

/-- `PROG_MAX` of R5: the largest program, 4096 - 0x200 bytes. -/
def Config.progMax : Nat := 3584

/-- `GLYPH_BYTES` of R5. -/
def Config.glyphBytes : Nat := 5

/-- `FONT` of R5: the 80 bytes at 0x000 to 0x04F, by default the table of 10_state.md R33. PRESUMED by the spec itself
(93_implementation_defined.md G2: general knowledge, not the source); no instruction rule depends on them. Log 4, unsafe for a
claim about the reset contents of 0x000 to 0x04F. `State.resetWith` takes any other font. -/
def Config.font : Vector Byte 80 :=
  (#v[0xF0, 0x90, 0x90, 0x90, 0xF0,  0x20, 0x60, 0x20, 0x20, 0x70,  0xF0, 0x10, 0xF0, 0x80, 0xF0,  0xF0, 0x10, 0xF0, 0x10, 0xF0] : Vector Byte 20) ++
  (#v[0x90, 0x90, 0xF0, 0x10, 0x10,  0xF0, 0x80, 0xF0, 0x10, 0xF0,  0xF0, 0x80, 0xF0, 0x90, 0xF0,  0xF0, 0x10, 0x20, 0x40, 0x40] : Vector Byte 20) ++
  (#v[0xF0, 0x90, 0xF0, 0x90, 0xF0,  0xF0, 0x90, 0xF0, 0x10, 0xF0,  0xF0, 0x90, 0xF0, 0x90, 0x90,  0xE0, 0x90, 0xE0, 0x90, 0xE0] : Vector Byte 20) ++
  (#v[0xF0, 0x80, 0x80, 0x80, 0xF0,  0xE0, 0x90, 0x90, 0x90, 0xE0,  0xF0, 0x80, 0xF0, 0x80, 0xF0,  0xF0, 0x80, 0xF0, 0x80, 0x80] : Vector Byte 20)

/-- The keypad snapshot of the k-th tick (R38: "any 16-bit value may arrive on any tick"), where the state's own list of
inputs does not fix it: a FREE VALUE, one for each tick number. Log 1. -/
opaque Config.freeKeys : Nat → BitVec 16

/-- The random byte of the k-th tick (R39: "a free input of every tick, any value 0 to 255, under no law"), where the state's
own list of inputs does not fix it: a FREE VALUE, one for each tick number. Log 1. -/
opaque Config.freeRnd : Nat → BitVec 8

end Sys2Proof
end

