-- ==== Sys2Proof/Machine/State.lean ====
section
/-! DEFINITION. The state of the core (10_state.md R20 to R40), the outcomes a step can end in, and the state after reset
(70_reset_and_hazards.md R210). -/

namespace Sys2Proof.Machine

/-- `MODE` (R34): three legal values; the fourth 2-bit value is never produced, so it has no name here. Their numbers are
`Mode.toBits`. -/
inductive Mode where
  /-- 0: a tick fetches and executes an instruction. -/
  | running
  /-- 1: `Fx0A` is waiting for a key (R152, R198). -/
  | awaitingKey
  /-- 2: a fault has stopped the core; every tick is the identity (R182). -/
  | halted
  deriving DecidableEq, Repr

/-- `ERR` (R36): no fault, or the code of the fault that halted the core (R180). Their numbers are `ErrCode.toBits`. -/
inductive ErrCode where
  /-- 0: no fault has occurred. -/
  | none
  /-- 1 (R183). -/
  | fetchOutOfBounds
  /-- 2 (R184). -/
  | illegalInstruction
  /-- 3 (R185). -/
  | stackOverflow
  /-- 4 (R186). -/
  | stackUnderflow
  /-- 5 (R187). -/
  | dataAddressOutOfBounds
  /-- 6 (R192). -/
  | keyIndexOutOfRange
  deriving DecidableEq, Repr

/-- Memory as the cells that differ from what `Memory.unlisted` gives, by strictly rising address (`Memory.wf`). -/
abbrev Memory := List Host.Cell

/-- What the host presents with one tick: the keypad snapshot `KEYS` (R38) and the random byte `RND` (R39). -/
structure TickInput where
  keys : BitVec 16
  rnd : Byte
  deriving DecidableEq, Repr

/-- All state of the core (R40), and the model's own two fields for the inputs of the ticks to come (log 1). -/
structure State where
  /-- `V[0]` to `V[15]` (R20); `V[15]` is VF (R22). -/
  v : Vector Byte 16
  /-- The address register `I` (R23). -/
  i : Word
  /-- The program counter (R24). -/
  pc : Word
  /-- The stack pointer, 5 bits, the number of live entries (R27). -/
  sp : BitVec 5
  /-- The call stack `STK[0]` to `STK[15]` (R26). -/
  stk : Vector Word 16
  /-- The delay timer (R29). -/
  dt : Byte
  /-- The sound timer (R30). -/
  st : Byte
  /-- The framebuffer (R31): `fb[r]` is row `r`, its bit `c` the pixel of column `c`. -/
  fb : Vector (BitVec 64) 32
  /-- The memory (R32). -/
  mem : Memory
  /-- `MODE` (R34). -/
  mode : Mode
  /-- `WAITX` (R35). -/
  waitx : RegIdx
  /-- `ERR` (R36). -/
  err : ErrCode
  /-- `ERRINFO` (R37). -/
  errinfo : Word
  /-- The model's own: the inputs already fixed for the coming ticks, the next tick's first (log 1). -/
  inputs : List TickInput
  /-- The model's own: how many ticks have taken their inputs; the argument of the free inputs (log 1). -/
  tickNo : Nat
  deriving DecidableEq, Repr

/-- The state after reset, R210 and the table of R40: nothing is listed in memory, whose unlisted bytes are the reset contents
(`Memory.unlisted`: the font, then zeros). No program is in it: a program is loaded from outside (`State.resetWith`, log 5). The
last two fields are the model's own (log 2, DESIGN CHOICE). -/
def State.reset : State where
  v := Vector.replicate 16 0x00
  i := 0x0000
  pc := 0x0200
  sp := 0
  stk := Vector.replicate 16 0x0000
  dt := 0x00
  st := 0x00
  fb := Vector.replicate 32 0
  mem := []
  mode := .running
  waitx := 0
  err := .none
  errinfo := 0x0000
  inputs := []
  tickNo := 0

/-- The model's Host-level fault. The faults of the SPEC (R180) are not here: each is a next state in mode Halted (R181). -/
inductive Fault where
  /-- Raised by CALL and RET in a state whose 5-bit `SP` holds 17 to 31, for which the spec gives no effect (R27: `SP` is 0 to
  16). SAFE: no run reaches such a state (the invariant `State.SpBounded`), and the model stops there. Log 7. -/
  | stackPointerOutOfRange
  deriving DecidableEq, Repr

/-- The model's refusals. -/
inductive Refusal where
  /-- Raised by an arm of `exec` whose instruction has no meaning yet, with its mnemonic; no arm raises it now. SAFE: the
  model stops. -/
  | notModelled (mnemonic : String)
  deriving DecidableEq, Repr

/-- What executing an instruction, or a step, answers. -/
abbrev Result := Host.Outcome State Fault Refusal

end Sys2Proof.Machine
end

