-- ==== Sys2Proof/Machine/Ops.lean ====
section
/-! DEFINITION. The named operations on the state: memory, registers, program counter, inputs, and taking a fault. Every
instruction's meaning is built from them. -/

namespace Sys2Proof.Machine

/-! ### Memory (20_memory.md R50 to R61) -/

/-- What an address that is not listed reads as: the reset contents of R40 and R58, the font at 0x000 to 0x04F and 0x00
elsewhere. Log 6. -/
def Memory.unlisted (a : Nat) : Byte :=
  if h : a < 80 then Config.font[a] else 0x00

/-- `MEM[a]` (R7 `MemRead`). Callers check the bounds first (R53, R60), so `a` is at most 0xFFF. -/
def Memory.read : Memory → Nat → Byte
  | [], a => Memory.unlisted a
  | (k, b) :: m, a => if a = k then b else Memory.read m a

/-- The memory without an entry for `a`. -/
def Memory.erase (m : Memory) (a : Nat) : Memory := m.filter (fun c => c.1 != a)

/-- The memory with the entry `(a, b)` before the first entry of a greater address. -/
def Memory.insert : Memory → Nat → Byte → Memory
  | [], a, b => [(a, b)]
  | (k, c) :: m, a, b => if a < k then (a, b) :: (k, c) :: m else (k, c) :: Memory.insert m a b

/-- `MEM[a] <- b` (R7 `MemWrite`), keeping the canonical form: no entry equals what its address reads as unlisted. Callers check
the bounds first (R60). -/
def Memory.write (m : Memory) (a : Nat) (b : Byte) : Memory :=
  if b = Memory.unlisted a then m.erase a else Memory.insert (m.erase a) a b

/-- The canonical form from address `lo` up: addresses strictly rising and inside memory, no entry equal to what its address
reads as unlisted. -/
def Memory.wfFrom : Nat → Memory → Bool
  | _, [] => true
  | lo, (k, b) :: m => decide (lo ≤ k) && decide (k < Config.memSize) && (b != Memory.unlisted k) && Memory.wfFrom (k + 1) m

/-- The canonical form of memory: two memories in it are equal when every address reads the same. -/
def Memory.wf (m : Memory) : Bool := Memory.wfFrom 0 m

/-- The bytes stored one after another from address `a` up. -/
def Memory.load : Memory → Nat → List Byte → Memory
  | m, _, [] => m
  | m, a, b :: bs => Memory.load (m.write a b) (a + 1) bs

/-! ### Registers and program counter -/

/-- The number of VF, `V[15]` (R20, R22). -/
def vf : RegIdx := 0xF

/-- `V[x]` (R20); every number names a register. -/
def State.reg (s : State) (x : RegIdx) : Byte := s.v[x.toNat]'(by exact x.isLt)

/-- `V[x] <- b` (R20): no register is hard-wired. -/
def State.setReg (s : State) (x : RegIdx) (b : Byte) : State :=
  { s with v := s.v.set x.toNat b (by exact x.isLt) }

/-- `PC <- target` (R7): "there is no implicit advance". -/
def State.setPc (s : State) (target : Word) : State := { s with pc := target }

/-- `I <- a` (R23). -/
def State.setI (s : State) (a : Word) : State := { s with i := a }

/-- `DT <- b` (R29). -/
def State.setDt (s : State) (b : Byte) : State := { s with dt := b }

/-- `ST <- b` (R30). -/
def State.setSt (s : State) (b : Byte) : State := { s with st := b }

/-- The framebuffer replaced (R31). -/
def State.setFb (s : State) (fb : Vector (BitVec 64) 32) : State := { s with fb := fb }

/-- The memory replaced (R32). -/
def State.setMem (s : State) (m : Memory) : State := { s with mem := m }

/-- `MODE <- m` (R34). -/
def State.setMode (s : State) (m : Mode) : State := { s with mode := m }

/-- `WAITX <- x` (R35). -/
def State.setWaitx (s : State) (x : RegIdx) : State := { s with waitx := x }

/-- `SP <- n` (R27). -/
def State.setSp (s : State) (n : BitVec 5) : State := { s with sp := n }

/-- `PC <- PC + 2`, "incremented by 2 per non-branching instruction" (R25). -/
def State.advance (s : State) : State := s.setPc (s.pc + 2)

/-- `PC <- PC + 4` when the condition holds, else `PC <- PC + 2` (R25, R100). -/
def State.skipIf (s : State) (cond : Bool) : State := s.setPc (if cond then s.pc + 4 else s.pc + 2)

/-! ### Taking a fault (60_exceptions.md R181) -/

/-- Fault entry, the one operation behind every fault of R180: the core halts with the code and the information, and nothing else
changes. There is no handler, no saved pc and no return from it (R181, R189). -/
def State.takeFault (s : State) (code : ErrCode) (info : Word) : State :=
  { s with mode := .halted, err := code, errinfo := info }

/-! ### The inputs of a tick (10_state.md R38, R39; log 1) -/

/-- `KEYS` of this tick: what the state's list fixes for it, else the free snapshot of this tick number. -/
def State.keys (s : State) : BitVec 16 :=
  match s.inputs with
  | inp :: _ => inp.keys
  | [] => Config.freeKeys s.tickNo

/-- `RND` of this tick: what the state's list fixes for it, else the free byte of this tick number. -/
def State.rnd (s : State) : Byte :=
  match s.inputs with
  | inp :: _ => inp.rnd
  | [] => Config.freeRnd s.tickNo

/-- This tick's inputs are used up: the next tick has its own (R38: "supplied once per cycle"). -/
def State.dropInput (s : State) : State := { s with inputs := s.inputs.tail, tickNo := s.tickNo + 1 }

/-! ### The framebuffer (10_state.md R31, 44_display.md R140 to R144) -/

/-- `FB[r][c]`. -/
def pixel (fb : Vector (BitVec 64) 32) (r : Fin 32) (c : Fin 64) : Bool := fb[r].getLsbD c.val

/-- `FB[r][c] <- FB[r][c] XOR 1`. -/
def flipPixel (fb : Vector (BitVec 64) 32) (r : Fin 32) (c : Fin 64) : Vector (BitVec 64) 32 :=
  fb.set r (fb[r] ^^^ BitVec.twoPow 64 c.val)

/-- Every pixel 0. -/
def clearFb : Vector (BitVec 64) 32 := Vector.replicate 32 0

/-! ### The call stack (10_state.md R26 to R28) -/

/-- Push of a return address at `SP`, then one more live entry (R28), where `SP` is below 16. -/
def State.push (s : State) (a : Word) (h : s.sp.toNat < 16) : State :=
  { s with stk := s.stk.set s.sp.toNat a, sp := s.sp + 1 }

end Sys2Proof.Machine
end

