-- ==== Sys2Proof/Machine/Operands.lean ====
section
/-! DEFINITION. The operand forms: zero-extended fields (30_encoding.md R72), the base register plus offset address and its
bounds check (20_memory.md R52, R60; 47_memory_transfer.md R170), key numbers (45_keypad.md R150, R155), and sprite coordinates
(44_display.md R142). The register operands are `State.reg` and `State.setReg`. -/

namespace Sys2Proof.Machine

/-- `zext_16(nnn)` (R72). -/
def zextAddr (nnn : Addr) : Word := nnn.zeroExtend 16

/-- `zext_16` of a byte (R133, R134, R180). -/
def zextByte (b : Byte) : Word := b.zeroExtend 16

/-- The effective address `I + k`, an unbounded integer (R52). -/
def State.effAddr (s : State) (k : Nat) : Nat := s.i.toNat + k

/-- The bounds check of R60 on the `c` bytes at `I` to `I + c - 1`: the lowest out-of-range address, `max(I, 0x1000)`, when the
range leaves memory; no fault when it does not, or when `c` is 0. -/
def State.rangeFault (s : State) (c : Nat) : Option Word :=
  if 1 ≤ c ∧ 0xFFF < s.effAddr (c - 1) then
    some (if s.i.toNat < 0x1000 then 0x1000 else s.i)
  else none

/-- An instruction that accesses the `c` bytes at `I`: the fault of R60 with none of its effects, else the effect. -/
def State.dataAccess (s : State) (c : Nat) (effect : State) : Result :=
  match s.rangeFault c with
  | some a => .next (s.takeFault .dataAddressOutOfBounds a)
  | none => .next effect

/-- `KEYS[k]` (R38). -/
def keyDown (keys : BitVec 16) (k : Nat) : Bool := keys.getLsbD k

/-- `LowestKey(KEYS)` (R155): the least key that is down; `none` exactly when no key is. -/
def lowestKey (keys : BitVec 16) : Option (BitVec 4) :=
  ((List.range 16).find? (fun k => keyDown keys k)).map (fun k => BitVec.ofNat 4 k)

/-- A framebuffer row number, reduced modulo 32 (R142: wrapping, not clipping). -/
def rowOf (r : Nat) : Fin 32 := ⟨r % 32, Nat.mod_lt r (by decide)⟩

/-- A framebuffer column number, reduced modulo 64 (R142: wrapping, not clipping). -/
def colOf (c : Nat) : Fin 64 := ⟨c % 64, Nat.mod_lt c (by decide)⟩

end Sys2Proof.Machine
end

