-- ==== Sys2Proof/Machine/Flags.lean ====
section
/-! DEFINITION. The flag computations: VF is the only flag, always written 0x00 or 0x01 (10_state.md R22), after the result
(42_alu.md R120). The collision flag of `Dxyn` accumulates in `Canvas.hit` (Machine/Display.lean). -/

namespace Sys2Proof.Machine

/-- A flag as the byte VF receives (R22). -/
def flagByte (c : Bool) : Byte := if c then 0x01 else 0x00

/-- Carry of `8xy4` (R110, R118): the true sum exceeds 255. -/
def carryFlag (a b : Byte) : Bool := decide (255 < a.toNat + b.toNat)

/-- Not-borrow of `a - b` (R110, R119, R122): the minuend is at least the subtrahend. -/
def notBorrowFlag (a b : Byte) : Bool := decide (b.toNat ≤ a.toNat)

/-- The bit shifted out at the bottom (R121). -/
def lowBitFlag (a : Byte) : Bool := a.getLsbD 0

/-- The bit shifted out at the top (R123). -/
def highBitFlag (a : Byte) : Bool := a.getLsbD 7

/-- The result to `V[x]`, then the flag to VF (R120), so that with x = F the flag stays. -/
def State.setResultAndFlag (s : State) (x : RegIdx) (result : Byte) (flag : Bool) : State :=
  (s.setReg x result).setReg vf (flagByte flag)

end Sys2Proof.Machine
end

