-- ==== Sys2Proof/Machine/Alu.lean ====
section
/-! DEFINITION. Register load and arithmetic (42_alu.md R110 to R124). All advance `PC` by 2 and none can fault; operands are
read before anything is written (R113, R120). -/

namespace Sys2Proof.Machine

/-- `6xkk` (R111). -/
def execLdImm (x : RegIdx) (kk : Byte) (s : State) : Result := .next (s.setReg x kk).advance

/-- `7xkk` (R112): wraps modulo 256, no flag. -/
def execAddImm (x : RegIdx) (kk : Byte) (s : State) : Result := .next (s.setReg x (s.reg x + kk)).advance

/-- `8xy0` (R114). -/
def execLdReg (x y : RegIdx) (s : State) : Result := .next (s.setReg x (s.reg y)).advance

/-- `8xy1` (R115): VF is not written as a flag. -/
def execOrReg (x y : RegIdx) (s : State) : Result := .next (s.setReg x (s.reg x ||| s.reg y)).advance

/-- `8xy2` (R116): VF is not written as a flag. -/
def execAndReg (x y : RegIdx) (s : State) : Result := .next (s.setReg x (s.reg x &&& s.reg y)).advance

/-- `8xy3` (R117): VF is not written as a flag. -/
def execXorReg (x y : RegIdx) (s : State) : Result := .next (s.setReg x (s.reg x ^^^ s.reg y)).advance

/-- `8xy4` (R118): the sum modulo 256, then the carry. -/
def execAddReg (x y : RegIdx) (s : State) : Result :=
  .next (s.setResultAndFlag x (s.reg x + s.reg y) (carryFlag (s.reg x) (s.reg y))).advance

/-- `8xy5` (R119): `Vx - Vy` modulo 256, then not-borrow. -/
def execSub (x y : RegIdx) (s : State) : Result :=
  .next (s.setResultAndFlag x (s.reg x - s.reg y) (notBorrowFlag (s.reg x) (s.reg y))).advance

/-- `8xy6` (R121): `Vx` shifted right in place, then the bit shifted out; `Vy` is not read. -/
def execShr (x _y : RegIdx) (s : State) : Result :=
  .next (s.setResultAndFlag x (s.reg x >>> 1) (lowBitFlag (s.reg x))).advance

/-- `8xy7` (R122): `Vy - Vx` modulo 256, then not-borrow. -/
def execSubn (x y : RegIdx) (s : State) : Result :=
  .next (s.setResultAndFlag x (s.reg y - s.reg x) (notBorrowFlag (s.reg y) (s.reg x))).advance

/-- `8xyE` (R123): `Vx` shifted left in place, then the bit shifted out; `Vy` is not read. -/
def execShl (x _y : RegIdx) (s : State) : Result :=
  .next (s.setResultAndFlag x (s.reg x <<< 1) (highBitFlag (s.reg x))).advance

end Sys2Proof.Machine
end

