-- ==== Sys2Proof/Machine/Control.lean ====
section
/-! DEFINITION. Control flow (40_control_flow.md R90 to R93): return, jump, call. -/

namespace Sys2Proof.Machine

/-- `00EE` (R91): StackUnderflow on an empty stack, else `SP <- SP - 1` and `PC <- STK[SP]`, the popped entry staying where it is.
An `SP` above 16, which no run reaches, addresses no entry (log 7). -/
def execRet (s : State) : Result :=
  if s.sp = 0 then .next (s.takeFault .stackUnderflow 0x0000)
  else
    match s.stk[(s.sp - 1).toNat]? with
    | some a => .next ((s.setSp (s.sp - 1)).setPc a)
    | none => .fault .stackPointerOutOfRange

/-- `1nnn` (R92). -/
def execJp (nnn : Addr) (s : State) : Result := .next (s.setPc (zextAddr nnn))

/-- `2nnn` (R93): StackOverflow(nnn) on a full stack, else the address after the call is pushed and `PC <- nnn`. An `SP` above 16,
which no run reaches, addresses no entry (log 7). -/
def execCall (nnn : Addr) (s : State) : Result :=
  if s.sp = 16 then .next (s.takeFault .stackOverflow (zextAddr nnn))
  else if h : s.sp.toNat < 16 then .next ((s.push (s.pc + 2) h).setPc (zextAddr nnn))
  else .fault .stackPointerOutOfRange

end Sys2Proof.Machine
end

