-- ==== Sys2Proof/Machine/Display.lean ====
section
/-! DEFINITION. Display (44_display.md R140 to R144): clear screen, and draw sprite with wrap-around and collision detection. -/

namespace Sys2Proof.Machine

/-- A framebuffer being drawn on, and whether a pixel of it has gone from 1 to 0 in this draw (R142 `collision`). -/
structure Canvas where
  fb : Vector (BitVec 64) 32
  hit : Bool
  deriving DecidableEq, Repr

/-- A sprite bit of 1 at a pixel (R142): the pixel flips, and it is a collision when it was 1. -/
def Canvas.drawBit (cv : Canvas) (r : Fin 32) (c : Fin 64) : Canvas :=
  ⟨flipPixel cv.fb r c, cv.hit || pixel cv.fb r c⟩

/-- One sprite byte in row `r`, bit 7 at column `x0` (R142: for c in 0..7, bit 7 - c at column (x0 + c) mod 64). -/
def Canvas.drawByte (cv : Canvas) (r : Fin 32) (x0 : Nat) (b : Byte) : Canvas :=
  (List.range 8).foldl (fun cv c => if b.getLsbD (7 - c) then cv.drawBit r (colOf (x0 + c)) else cv) cv

/-- `n` sprite rows, row r being the byte at address `base + r` drawn in row (y0 + r) mod 32 (R142). -/
def Canvas.drawSprite (cv : Canvas) (mem : Memory) (base x0 y0 n : Nat) : Canvas :=
  (List.range n).foldl (fun cv r => cv.drawByte (rowOf (y0 + r)) x0 (mem.read (base + r))) cv

/-- `00E0` (R141): VF is not written. -/
def execCls (s : State) : Result := .next (s.setFb clearFb).advance

/-- What `Dxyn` leaves where its range is in memory (R142): the origin is (Vx mod 64, Vy mod 32), read before VF is written; VF
receives the collision flag, also when nothing was drawn; I is not changed (R144). -/
def State.drawn (s : State) (x y : RegIdx) (n : Nat) : State :=
  let cv := Canvas.drawSprite ⟨s.fb, false⟩ s.mem (s.effAddr 0) ((s.reg x).toNat % 64) ((s.reg y).toNat % 32) n
  ((s.setFb cv.fb).setReg vf (flagByte cv.hit)).advance

/-- `Dxyn` (R142, R144): DataAddressOutOfBounds when a sprite byte lies above 0xFFF, with nothing drawn; n = 0 never faults. -/
def execDrw (x y : RegIdx) (n : Count) (s : State) : Result := s.dataAccess n.toNat (s.drawn x y n.toNat)

end Sys2Proof.Machine
end

