-- ==== Sys2Proof/Machine/IndexRandom.lean ====
section
/-! DEFINITION. The address register and the random byte (43_index_random.md R130 to R134). None accesses memory, writes VF as a
flag or can fault. -/

namespace Sys2Proof.Machine

/-- `Annn` (R131). -/
def execLdI (nnn : Addr) (s : State) : Result := .next (s.setI (zextAddr nnn)).advance

/-- `Cxkk` (R132): `RND` is this tick's random byte, a free input (log 1). -/
def execRnd (x : RegIdx) (kk : Byte) (s : State) : Result := .next (s.setReg x (kk &&& s.rnd)).advance

/-- `Fx1E` (R133): modulo 65536, no flag. -/
def execAddI (x : RegIdx) (s : State) : Result := .next (s.setI (s.i + zextByte (s.reg x))).advance

/-- `Fx29` (R134): the whole byte times 5, not masked. -/
def execLdF (x : RegIdx) (s : State) : Result :=
  .next (s.setI (zextByte (s.reg x) * BitVec.ofNat 16 Config.glyphBytes)).advance

end Sys2Proof.Machine
end

