-- ==== Sys2Proof/Machine/Keypad.lean ====
section
/-! DEFINITION. The keypad (45_keypad.md R150 to R155): the two key skips, `Fx0A`, and the step of a tick that waits for a key. -/

namespace Sys2Proof.Machine

/-- The two key skips (R151, R154): `Vx` above 15 names no key, KeyIndexOutOfRange(Vx); else skip when the key's state is the one
wanted. -/
def State.keySkip (s : State) (x : RegIdx) (wanted : Bool) : State :=
  if 15 < (s.reg x).toNat then s.takeFault .keyIndexOutOfRange (zextByte (s.reg x))
  else s.skipIf (keyDown s.keys (s.reg x).toNat == wanted)

/-- `Ex9E` (R151). -/
def execSkp (x : RegIdx) (s : State) : Result := .next (s.keySkip x true)

/-- `ExA1` (R154). -/
def execSknp (x : RegIdx) (s : State) : Result := .next (s.keySkip x false)

/-- The wait is over (R152, R153): the key's number, zero-extended, to `V[x]`, and `PC <- PC + 2`. -/
def State.resolveKey (s : State) (x : RegIdx) (k : BitVec 4) : State := (s.setReg x (k.zeroExtend 8)).advance

/-- `Fx0A` in mode Running (R152): a key that is already down resolves it on this very tick; else the core waits, `PC` and `V`
unchanged. -/
def execLdVxK (x : RegIdx) (s : State) : Result :=
  .next (match lowestKey s.keys with
    | some k => s.resolveKey x k
    | none => (s.setWaitx x).setMode .awaitingKey)

/-- `AwaitStep(KEYS)` (R153): no fetch; a key that is down resolves the wait and the core runs again, else nothing changes. -/
def State.awaitStep (s : State) : State :=
  match lowestKey s.keys with
  | some k => (s.resolveKey s.waitx k).setMode .running
  | none => s

end Sys2Proof.Machine
end

