-- ==== Sys2Proof/Machine/Timers.lean ====
section
/-! DEFINITION. The timers (46_timers.md R160 to R164): the three instructions that reach them and the countdown that ends a tick. -/

namespace Sys2Proof.Machine

/-- `Fx07` (R161): the value before this tick's decrement. -/
def execLdVxDt (x : RegIdx) (s : State) : Result := .next (s.setReg x s.dt).advance

/-- `Fx15` (R162). -/
def execLdDtVx (x : RegIdx) (s : State) : Result := .next (s.setDt (s.reg x)).advance

/-- `Fx18` (R163). -/
def execLdStVx (x : RegIdx) (s : State) : Result := .next (s.setSt (s.reg x)).advance

/-- One timer's countdown (R160): by one while above 0, staying at 0. -/
def countDown (t : Byte) : Byte := if t = 0 then 0 else t - 1

/-- The end-of-tick decrement of both timers, each on its own value (R160). -/
def State.countdown (s : State) : State := (s.setDt (countDown s.dt)).setSt (countDown s.st)

end Sys2Proof.Machine
end

