-- ==== Sys2Proof/Machine/Transfer.lean ====
section
/-! DEFINITION. Memory transfer (47_memory_transfer.md R170 to R174): BCD split, store registers, load registers. I is never
modified (R174) and none writes VF as a flag. -/

namespace Sys2Proof.Machine

/-- The hundreds, tens and ones digit of a byte, each a byte (R171). -/
def bcdDigits (b : Byte) : List Byte :=
  [BitVec.ofNat 8 (b.toNat / 100), BitVec.ofNat 8 (b.toNat / 10 % 10), BitVec.ofNat 8 (b.toNat % 10)]

/-- What `Fx33` leaves where its range is in memory (R171): the digits of `Vx` at I, I + 1, I + 2. -/
def State.bcdStored (s : State) (x : RegIdx) : State :=
  (s.setMem (s.mem.load (s.effAddr 0) (bcdDigits (s.reg x)))).advance

/-- `Fx33` (R171). -/
def execLdB (x : RegIdx) (s : State) : Result := s.dataAccess 3 (s.bcdStored x)

/-- `V[0]` to `V[x]` in order: the bytes `Fx55` stores (R172). -/
def State.regsUpTo (s : State) (x : RegIdx) : List Byte :=
  (List.range (x.toNat + 1)).map (fun k => s.reg (BitVec.ofNat 4 k))

/-- `Fx55` (R172): `V[k]` to I + k for k = 0 to x. -/
def execLdMemVx (x : RegIdx) (s : State) : Result :=
  s.dataAccess (x.toNat + 1) (s.setMem (s.mem.load (s.effAddr 0) (s.regsUpTo x))).advance

/-- What `Fx65` leaves of the registers (R173): `V[k] <- MEM[I + k]` for k = 0 to x. -/
def State.regsLoaded (s : State) (x : RegIdx) : State :=
  (List.range (x.toNat + 1)).foldl (fun t k => t.setReg (BitVec.ofNat 4 k) (s.mem.read (s.effAddr k))) s

/-- `Fx65` (R173). -/
def execLdVxMem (x : RegIdx) (s : State) : Result := s.dataAccess (x.toNat + 1) (s.regsLoaded x).advance

end Sys2Proof.Machine
end

