-- ==== Sys2Proof/Syntax.lean ====
section
/-! DEFINITION. The instruction set: one constructor per row of spec/opcode_table.json, in the table's order (30_encoding.md
R74). There are no pseudo-instructions (R81) and no row is another name for the words of a second row. -/

namespace Sys2Proof

/-- The 33 instructions of R74. Operand fields are those of R8 and R71: `x`, `y` register numbers, `kk` a byte, `nnn` a
12-bit address, `n` a row count. -/
inductive Instr where
  /-- `00E0` Clear screen. -/
  | cls
  /-- `00EE` Return. -/
  | ret
  /-- `1nnn` Jump. -/
  | jp (nnn : Addr)
  /-- `2nnn` Call. -/
  | call (nnn : Addr)
  /-- `3xkk` Skip-eq-imm. -/
  | seImm (x : RegIdx) (kk : Byte)
  /-- `4xkk` Skip-ne-imm. -/
  | sneImm (x : RegIdx) (kk : Byte)
  /-- `5xy0` Skip-eq-reg. -/
  | seReg (x y : RegIdx)
  /-- `6xkk` Load-imm. -/
  | ldImm (x : RegIdx) (kk : Byte)
  /-- `7xkk` Add-imm. -/
  | addImm (x : RegIdx) (kk : Byte)
  /-- `8xy0` copy. -/
  | ldReg (x y : RegIdx)
  /-- `8xy1` OR. -/
  | orReg (x y : RegIdx)
  /-- `8xy2` AND. -/
  | andReg (x y : RegIdx)
  /-- `8xy3` XOR. -/
  | xorReg (x y : RegIdx)
  /-- `8xy4` addition. -/
  | addReg (x y : RegIdx)
  /-- `8xy5` subtraction. -/
  | sub (x y : RegIdx)
  /-- `8xy6` right-shift; `y` takes part in nothing (R78) but is part of the word. -/
  | shr (x y : RegIdx)
  /-- `8xy7` reverse subtraction. -/
  | subn (x y : RegIdx)
  /-- `8xyE` left-shift; `y` takes part in nothing (R78) but is part of the word. -/
  | shl (x y : RegIdx)
  /-- `9xy0` Skip-ne-reg. -/
  | sneReg (x y : RegIdx)
  /-- `Annn` Load I. -/
  | ldI (nnn : Addr)
  /-- `Cxkk` Random. -/
  | rnd (x : RegIdx) (kk : Byte)
  /-- `Dxyn` Draw sprite. -/
  | drw (x y : RegIdx) (n : Count)
  /-- `Ex9E` Skip-on-key, pressed. -/
  | skp (x : RegIdx)
  /-- `ExA1` Skip-on-key, not pressed. -/
  | sknp (x : RegIdx)
  /-- `Fx07` Read delay. -/
  | ldVxDt (x : RegIdx)
  /-- `Fx0A` Await key. -/
  | ldVxK (x : RegIdx)
  /-- `Fx15` Write timer, delay. -/
  | ldDtVx (x : RegIdx)
  /-- `Fx18` Write timer, sound. -/
  | ldStVx (x : RegIdx)
  /-- `Fx1E` Add to I. -/
  | addI (x : RegIdx)
  /-- `Fx29` Font address. -/
  | ldF (x : RegIdx)
  /-- `Fx33` BCD split. -/
  | ldB (x : RegIdx)
  /-- `Fx55` Store registers. -/
  | ldMemVx (x : RegIdx)
  /-- `Fx65` Load registers. -/
  | ldVxMem (x : RegIdx)
  deriving DecidableEq, Repr

end Sys2Proof
end

