-- ==== Sys2Proof/WellFormed.lean ====
section
/-! DEFINITION. Which words are instructions (30_encoding.md R76) and which images a run may start from (70_reset_and_hazards.md
R213). A term of `Instr` needs no check of its own: R72 makes all 16 register numbers, every byte, every 12-bit address and every
row count legal in every instruction that has the field, and the fields' types are exactly those ranges. -/

namespace Sys2Proof

/-- R76, read from its table of ILLEGAL words class nibble by class nibble, independently of the decoder's table (R74): the
word is one of the 39858 legal ones. -/
def legalWord (w : Word) : Bool :=
  match (w.extractLsb' 12 4).toNat with
  | 0x0 => w == 0x00E0 || w == 0x00EE
  | 0x5 => w.extractLsb' 0 4 == 0x0#4
  | 0x8 => !((w.extractLsb' 0 4) ∈ [0x8#4, 0x9#4, 0xA#4, 0xB#4, 0xC#4, 0xD#4, 0xF#4])
  | 0x9 => w.extractLsb' 0 4 == 0x0#4
  | 0xB => false
  | 0xE => (w.extractLsb' 0 8) ∈ [0x9E#8, 0xA1#8]
  | 0xF => (w.extractLsb' 0 8) ∈ [0x07#8, 0x0A#8, 0x15#8, 0x18#8, 0x1E#8, 0x29#8, 0x33#8, 0x55#8, 0x65#8]
  | _ => true

/-- R213 (a): the loader accepts a program of 1 to 3584 bytes; any other is no run of the core (93_implementation_defined.md M7). -/
def progOk (prog : List Byte) : Bool :=
  decide (1 ≤ prog.length) && decide (prog.length ≤ Config.progMax)

end Sys2Proof
end

