-- ==== Sys2Proof/Decode.lean ====
section
/-! DEFINITION. The decoder (30_encoding.md R70 to R79): the mask/match table of R74, the first matching row's instruction, and
no instruction where no row matches. Then the encoder, written from the word patterns of R71 and R74. -/

namespace Sys2Proof

/-- The field `x = w[11:8]` (R8). -/
def fieldX (w : Word) : RegIdx := w.extractLsb' 8 4

/-- The field `y = w[7:4]` (R8). -/
def fieldY (w : Word) : RegIdx := w.extractLsb' 4 4

/-- The field `n = w[3:0]` (R8). -/
def fieldN (w : Word) : Count := w.extractLsb' 0 4

/-- The field `kk = w[7:0]` (R8). -/
def fieldKK (w : Word) : Byte := w.extractLsb' 0 8

/-- The field `nnn = w[11:0]` (R8). -/
def fieldNNN (w : Word) : Addr := w.extractLsb' 0 12

/-- One row of the opcode map: a word `w` is this row's instruction when `(w AND mask) = match` (R73). -/
structure OpRow where
  mask : Word
  value : Word
  build : Word → Instr

/-- The test of R73. -/
def OpRow.hits (r : OpRow) (w : Word) : Bool := w &&& r.mask == r.value

/-- R74, rows `00E0` to `7xkk`. -/
def opRowsLow : List OpRow :=
  [ ⟨0xFFFF, 0x00E0, fun _ => .cls⟩,
    ⟨0xFFFF, 0x00EE, fun _ => .ret⟩,
    ⟨0xF000, 0x1000, fun w => .jp (fieldNNN w)⟩,
    ⟨0xF000, 0x2000, fun w => .call (fieldNNN w)⟩,
    ⟨0xF000, 0x3000, fun w => .seImm (fieldX w) (fieldKK w)⟩,
    ⟨0xF000, 0x4000, fun w => .sneImm (fieldX w) (fieldKK w)⟩,
    ⟨0xF00F, 0x5000, fun w => .seReg (fieldX w) (fieldY w)⟩,
    ⟨0xF000, 0x6000, fun w => .ldImm (fieldX w) (fieldKK w)⟩,
    ⟨0xF000, 0x7000, fun w => .addImm (fieldX w) (fieldKK w)⟩ ]

/-- R74, rows `8xy0` to `8xyE`; the fourth nibble of each is R75's (PRESUMED by the spec, log 9). -/
def opRowsAlu : List OpRow :=
  [ ⟨0xF00F, 0x8000, fun w => .ldReg (fieldX w) (fieldY w)⟩,
    ⟨0xF00F, 0x8001, fun w => .orReg (fieldX w) (fieldY w)⟩,
    ⟨0xF00F, 0x8002, fun w => .andReg (fieldX w) (fieldY w)⟩,
    ⟨0xF00F, 0x8003, fun w => .xorReg (fieldX w) (fieldY w)⟩,
    ⟨0xF00F, 0x8004, fun w => .addReg (fieldX w) (fieldY w)⟩,
    ⟨0xF00F, 0x8005, fun w => .sub (fieldX w) (fieldY w)⟩,
    ⟨0xF00F, 0x8006, fun w => .shr (fieldX w) (fieldY w)⟩,
    ⟨0xF00F, 0x8007, fun w => .subn (fieldX w) (fieldY w)⟩,
    ⟨0xF00F, 0x800E, fun w => .shl (fieldX w) (fieldY w)⟩ ]

/-- R74, rows `9xy0` to `Fx65`. -/
def opRowsHigh : List OpRow :=
  [ ⟨0xF00F, 0x9000, fun w => .sneReg (fieldX w) (fieldY w)⟩,
    ⟨0xF000, 0xA000, fun w => .ldI (fieldNNN w)⟩,
    ⟨0xF000, 0xC000, fun w => .rnd (fieldX w) (fieldKK w)⟩,
    ⟨0xF000, 0xD000, fun w => .drw (fieldX w) (fieldY w) (fieldN w)⟩,
    ⟨0xF0FF, 0xE09E, fun w => .skp (fieldX w)⟩,
    ⟨0xF0FF, 0xE0A1, fun w => .sknp (fieldX w)⟩,
    ⟨0xF0FF, 0xF007, fun w => .ldVxDt (fieldX w)⟩,
    ⟨0xF0FF, 0xF00A, fun w => .ldVxK (fieldX w)⟩,
    ⟨0xF0FF, 0xF015, fun w => .ldDtVx (fieldX w)⟩,
    ⟨0xF0FF, 0xF018, fun w => .ldStVx (fieldX w)⟩,
    ⟨0xF0FF, 0xF01E, fun w => .addI (fieldX w)⟩,
    ⟨0xF0FF, 0xF029, fun w => .ldF (fieldX w)⟩,
    ⟨0xF0FF, 0xF033, fun w => .ldB (fieldX w)⟩,
    ⟨0xF0FF, 0xF055, fun w => .ldMemVx (fieldX w)⟩,
    ⟨0xF0FF, 0xF065, fun w => .ldVxMem (fieldX w)⟩ ]

/-- The opcode map of R74: 33 rows, in the table's order. -/
def opTable : List OpRow := opRowsLow ++ (opRowsAlu ++ opRowsHigh)

/-- Decoding of a word (R73): the row it matches, `none` where it matches none (an illegal word, R76). -/
def decode (w : Word) : Option Instr :=
  (opTable.find? (fun r => r.hits w)).map (fun r => r.build w)

/-- What the decoder makes of bytes: an instruction with the bytes after it, or a rejection by name. -/
inductive Decoded where
  /-- An instruction and the bytes that follow its two. -/
  | instr (i : Instr) (rest : List Byte)
  /-- Fewer than two bytes: no instruction word (R70: every instruction is two bytes). -/
  | truncated
  /-- An illegal word (R76); the core takes IllegalInstruction with this word (R184). -/
  | illegal (w : Word)
  deriving DecidableEq, Repr

/-- The word of two bytes, the one at the lower address in bits 15 to 8 (R53, R70). -/
def wordOfBytes (hi lo : Byte) : Word := hi ++ lo

/-- The decoder on bytes, total: high byte first (R53, R70). -/
def decodeBytes : List Byte → Decoded
  | hi :: lo :: rest =>
    match decode (wordOfBytes hi lo) with
    | some i => .instr i rest
    | none => .illegal (wordOfBytes hi lo)
  | _ => .truncated

/-- The high byte of a word, bits 15 to 8. -/
def highByte (w : Word) : Byte := w.extractLsb' 8 8

/-- The low byte of a word, bits 7 to 0. -/
def lowByte (w : Word) : Byte := w.extractLsb' 0 8

/-- The instruction the decoder reads from a row's bits, numbered as the opcode table numbers them; every bit from `nbits` up
is 0. The word lies in memory high byte first. -/
def decodeTableWord (nbits w : Nat) : Option Instr :=
  let word : Word := BitVec.ofNat 16 (w % 2 ^ nbits)
  match decodeBytes [highByte word, lowByte word] with
  | .instr i _ => some i
  | .truncated => none
  | .illegal _ => none

/-- The word of an instruction, nibble by nibble from its pattern (R71, R74). -/
def encode : Instr → Word
  | .cls => 0x00E0
  | .ret => 0x00EE
  | .jp nnn => 0x1#4 ++ nnn
  | .call nnn => 0x2#4 ++ nnn
  | .seImm x kk => 0x3#4 ++ x ++ kk
  | .sneImm x kk => 0x4#4 ++ x ++ kk
  | .seReg x y => 0x5#4 ++ x ++ y ++ 0x0#4
  | .ldImm x kk => 0x6#4 ++ x ++ kk
  | .addImm x kk => 0x7#4 ++ x ++ kk
  | .ldReg x y => 0x8#4 ++ x ++ y ++ 0x0#4
  | .orReg x y => 0x8#4 ++ x ++ y ++ 0x1#4
  | .andReg x y => 0x8#4 ++ x ++ y ++ 0x2#4
  | .xorReg x y => 0x8#4 ++ x ++ y ++ 0x3#4
  | .addReg x y => 0x8#4 ++ x ++ y ++ 0x4#4
  | .sub x y => 0x8#4 ++ x ++ y ++ 0x5#4
  | .shr x y => 0x8#4 ++ x ++ y ++ 0x6#4
  | .subn x y => 0x8#4 ++ x ++ y ++ 0x7#4
  | .shl x y => 0x8#4 ++ x ++ y ++ 0xE#4
  | .sneReg x y => 0x9#4 ++ x ++ y ++ 0x0#4
  | .ldI nnn => 0xA#4 ++ nnn
  | .rnd x kk => 0xC#4 ++ x ++ kk
  | .drw x y n => 0xD#4 ++ x ++ y ++ n
  | .skp x => 0xE#4 ++ x ++ 0x9E#8
  | .sknp x => 0xE#4 ++ x ++ 0xA1#8
  | .ldVxDt x => 0xF#4 ++ x ++ 0x07#8
  | .ldVxK x => 0xF#4 ++ x ++ 0x0A#8
  | .ldDtVx x => 0xF#4 ++ x ++ 0x15#8
  | .ldStVx x => 0xF#4 ++ x ++ 0x18#8
  | .addI x => 0xF#4 ++ x ++ 0x1E#8
  | .ldF x => 0xF#4 ++ x ++ 0x29#8
  | .ldB x => 0xF#4 ++ x ++ 0x33#8
  | .ldMemVx x => 0xF#4 ++ x ++ 0x55#8
  | .ldVxMem x => 0xF#4 ++ x ++ 0x65#8

/-- The bytes of an instruction as they lie in memory, high byte at the lower address (R70). -/
def encodeBytes (i : Instr) : List Byte := [highByte (encode i), lowByte (encode i)]

end Sys2Proof
end

