-- ==== Sys2Proof/Machine/Tick.lean ====
section
/-! DEFINITION. The parts of one tick around the instruction (00_scope.md R9): the fetch, and what ends the tick. -/

namespace Sys2Proof.Machine

/-- `Fetch(PC)` (20_memory.md R53): the word at `PC`, high byte first; `none` when `PC` or `PC + 1` is outside memory. -/
def State.fetch (s : State) : Option Word :=
  if 0xFFE < s.pc.toNat then none
  else some (wordOfBytes (s.mem.read s.pc.toNat) (s.mem.read (s.pc.toNat + 1)))

/-- The end of a tick (R9, R160): when a fault was raised nothing more happens; else the timers count down, and this tick's
inputs are used up (log 3). -/
def State.endTick (s : State) : State :=
  if s.mode = .halted then s else s.countdown.dropInput

/-- The end of a tick that executed an instruction. -/
def endOfTick : Result → Result
  | .next t => .next t.endTick
  | .fault f => .fault f
  | .refused r => .refused r

/-- The instruction with bits `w` stored where the next tick fetches, high byte first, as a loader would place it. The fetch
needs mode Running and a `PC` of at most 0xFFE: both are set where they do not hold already (log 11). -/
def State.placeWord (s : State) (w : Word) : State :=
  let pc : Word := if 0xFFE < s.pc.toNat then BitVec.ofNat 16 Config.progBase else s.pc
  { s with
    pc := pc
    mode := .running
    mem := s.mem.load pc.toNat [highByte w, lowByte w] }

end Sys2Proof.Machine
end

