-- ==== Sys2Proof/Machine/Step.lean ====
section
/-! DEFINITION. One step is one tick (00_scope.md R9). -/

namespace Sys2Proof.Machine

/-- `Tick(KEYS, RND)` of R9, with the inputs of `State.keys` and `State.rnd`: nothing when Halted (R182); the await step and the
end of the tick when AwaitingKey (R153); else fetch (R53), decode (R73), execute, and the end of the tick. A fault of the fetch
or of the decoder is taken here (R183, R184), any other by the instruction's meaning. -/
def step (s : State) : Host.Outcome State Fault Refusal :=
  match s.mode with
  | .halted => .next s
  | .awaitingKey => .next s.awaitStep.endTick
  | .running =>
    match s.fetch with
    | none => .next (s.takeFault .fetchOutOfBounds s.pc)
    | some w =>
      match decode w with
      | none => .next (s.takeFault .illegalInstruction w)
      | some i => endOfTick (exec i s)

/-- `s` with the instruction whose bits are `w`, the bits from `nbits` up zero, where the next step fetches it. -/
def State.withFetchWord (s : State) (nbits w : Nat) : State := s.placeWord (BitVec.ofNat 16 (w % 2 ^ nbits))

end Sys2Proof.Machine
end

