-- ==== Sys2Proof/Machine/Boot.lean ====
section
/-! DEFINITION. How a run starts (70_reset_and_hazards.md R210 to R213): the reset state for any font and any program image. -/

namespace Sys2Proof.Machine

/-- The reset state of R210 with the given `FONT` and `PROG` in memory. `State.reset` is the one with the default font and no
program. -/
def State.resetWith (font : Vector Byte 80) (prog : List Byte) : State :=
  { State.reset with mem := (State.reset.mem.load 0 font.toList).load Config.progBase prog }

/-- The start of a run (R211, R213): no run exists for a program the loader rejects. -/
def boot (font : Vector Byte 80) (prog : List Byte) : Option State :=
  if progOk prog then some (State.resetWith font prog) else none

end Sys2Proof.Machine
end

