-- ==== Sys2Proof/Machine/Ports.lean ====
section
/-! DEFINITION. What the host reads between ticks (00_scope.md R11; 20_memory.md R65). -/

namespace Sys2Proof.Machine

/-- The `MODE` port's number (R11, R34). -/
def Mode.toBits : Mode → BitVec 2
  | .running => 0
  | .awaitingKey => 1
  | .halted => 2

/-- The `ERR` port's number, the code of R180. -/
def ErrCode.toBits : ErrCode → BitVec 3
  | .none => 0
  | .fetchOutOfBounds => 1
  | .illegalInstruction => 2
  | .stackOverflow => 3
  | .stackUnderflow => 4
  | .dataAddressOutOfBounds => 5
  | .keyIndexOutOfRange => 6

/-- The `MODE` output. -/
def State.outMode (s : State) : BitVec 2 := s.mode.toBits

/-- The `ERR` output. -/
def State.outErr (s : State) : BitVec 3 := s.err.toBits

/-- The `ERRINFO` output. -/
def State.outErrInfo (s : State) : Word := s.errinfo

/-- The `DT` output. -/
def State.outDt (s : State) : Byte := s.dt

/-- The `ST` output; the core makes no sound of it (46_timers.md R164). -/
def State.outSt (s : State) : Byte := s.st

/-- The `FB` output, row-major: bit r * 64 + c is `FB[r][c]` (R11, R31). -/
def State.outFb (s : State) : BitVec 2048 :=
  BitVec.ofFnLE (fun k : Fin 2048 => pixel s.fb ⟨k.val / 64, by omega⟩ ⟨k.val % 64, by omega⟩)

end Sys2Proof.Machine
end

