-- ==== Sys2Proof/Safety.lean ====
section
/-! DEFINITION. The terms claims are stated in: what stays the same in a step (frames), which registers and bytes an instruction
may write, the invariants of the core, and what a run is. Nothing here is part of the machine. -/

namespace Sys2Proof.Machine

/-! ### Frames -/

/-- The pieces of state a frame talks about; `inputs` stands for the model's own two fields together (log 1). -/
inductive Field where
  | v | i | pc | sp | stk | dt | st | fb | mem | mode | waitx | err | errinfo | inputs
  deriving DecidableEq, Repr

/-- A piece of state is the same in `t` as in `s`: every register of it, and for memory every byte read. -/
def Unchanged (s t : State) : Field → Prop
  | .v => ∀ r, t.reg r = s.reg r
  | .i => t.i = s.i
  | .pc => t.pc = s.pc
  | .sp => t.sp = s.sp
  | .stk => ∀ k : Fin 16, t.stk[k] = s.stk[k]
  | .dt => t.dt = s.dt
  | .st => t.st = s.st
  | .fb => ∀ r c, pixel t.fb r c = pixel s.fb r c
  | .mem => ∀ a, t.mem.read a = s.mem.read a
  | .mode => t.mode = s.mode
  | .waitx => t.waitx = s.waitx
  | .err => t.err = s.err
  | .errinfo => t.errinfo = s.errinfo
  | .inputs => t.inputs = s.inputs ∧ t.tickNo = s.tickNo

/-- Everything is the same in `t` as in `s` but the named pieces. -/
def FrameBut (may : List Field) (s t : State) : Prop := ∀ f, f ∉ may → Unchanged s t f

/-- The fault of R181 has been taken: Halted with the code and the information, and everything else as it was. -/
def Faulted (s t : State) (code : ErrCode) (info : Word) : Prop :=
  t.mode = .halted ∧ t.err = code ∧ t.errinfo = info ∧ FrameBut [.mode, .err, .errinfo] s t

/-! ### What an instruction may write -/

/-- The general registers an instruction may write (10_state.md R21): its destination, and VF where it writes a flag (R22). -/
def writesReg : Instr → RegIdx → Bool
  | .ldImm x _, r | .addImm x _, r | .rnd x _, r => r == x
  | .ldReg x _, r | .orReg x _, r | .andReg x _, r | .xorReg x _, r => r == x
  | .addReg x _, r | .sub x _, r | .shr x _, r | .subn x _, r | .shl x _, r => r == x || r == vf
  | .drw _ _ _, r => r == vf
  | .ldVxDt x, r | .ldVxK x, r => r == x
  | .ldVxMem x, r => decide (r.toNat ≤ x.toNat)
  | .cls, _ | .ret, _ | .jp _, _ | .call _, _ | .seImm _ _, _ | .sneImm _ _, _ | .seReg _ _, _ | .sneReg _ _, _ | .ldI _, _
  | .skp _, _ | .sknp _, _ | .ldDtVx _, _ | .ldStVx _, _ | .addI _, _ | .ldF _, _ | .ldB _, _ | .ldMemVx _, _ => false

/-- How many bytes from `I` up an instruction accesses as data (20_memory.md R51, R60). -/
def dataBytes : Instr → Nat
  | .drw _ _ n => n.toNat
  | .ldB _ => 3
  | .ldMemVx x | .ldVxMem x => x.toNat + 1
  | .cls | .ret | .jp _ | .call _ | .seImm _ _ | .sneImm _ _ | .seReg _ _ | .ldImm _ _ | .addImm _ _ | .ldReg _ _ | .orReg _ _
  | .andReg _ _ | .xorReg _ _ | .addReg _ _ | .sub _ _ | .shr _ _ | .subn _ _ | .shl _ _ | .sneReg _ _ | .ldI _ | .rnd _ _
  | .skp _ | .sknp _ | .ldVxDt _ | .ldVxK _ | .ldDtVx _ | .ldStVx _ | .addI _ | .ldF _ => 0

/-- The bytes an instruction may store to (R51): only `Fx33` and `Fx55` store. -/
def storesAt : Instr → State → Nat → Bool
  | .ldB _, s, a => decide (s.effAddr 0 ≤ a ∧ a ≤ s.effAddr 2)
  | .ldMemVx x, s, a => decide (s.effAddr 0 ≤ a ∧ a ≤ s.effAddr x.toNat)
  | .cls, _, _ | .ret, _, _ | .jp _, _, _ | .call _, _, _ | .seImm _ _, _, _ | .sneImm _ _, _, _ | .seReg _ _, _, _
  | .ldImm _ _, _, _ | .addImm _ _, _, _ | .ldReg _ _, _, _ | .orReg _ _, _, _ | .andReg _ _, _, _ | .xorReg _ _, _, _
  | .addReg _ _, _, _ | .sub _ _, _, _ | .shr _ _, _, _ | .subn _ _, _, _ | .shl _ _, _, _ | .sneReg _ _, _, _ | .ldI _, _, _
  | .rnd _ _, _, _ | .drw _ _ _, _, _ | .skp _, _, _ | .sknp _, _, _ | .ldVxDt _, _, _ | .ldVxK _, _, _ | .ldDtVx _, _, _
  | .ldStVx _, _, _ | .addI _, _, _ | .ldF _, _, _ | .ldVxMem _, _, _ => false

/-- The pieces of state besides the general registers and memory that an instruction may write: the program counter, what its
rule names, and MODE, ERR and ERRINFO where it can fault (R180) or wait (R152). -/
def writesField : Instr → List Field
  | .cls => [.pc, .fb]
  | .ret => [.pc, .sp, .mode, .err, .errinfo]
  | .call _ => [.pc, .sp, .stk, .mode, .err, .errinfo]
  | .ldI _ | .addI _ | .ldF _ => [.pc, .i]
  | .drw _ _ _ => [.pc, .fb, .mode, .err, .errinfo]
  | .skp _ | .sknp _ | .ldB _ | .ldMemVx _ | .ldVxMem _ => [.pc, .mode, .err, .errinfo]
  | .ldVxK _ => [.pc, .mode, .waitx]
  | .ldDtVx _ => [.pc, .dt]
  | .ldStVx _ => [.pc, .st]
  | .jp _ | .seImm _ _ | .sneImm _ _ | .seReg _ _ | .ldImm _ _ | .addImm _ _ | .ldReg _ _ | .orReg _ _ | .andReg _ _ | .xorReg _ _
  | .addReg _ _ | .sub _ _ | .shr _ _ | .subn _ _ | .shl _ _ | .sneReg _ _ | .rnd _ _ | .ldVxDt _ => [.pc]

/-! ### Invariants -/

/-- R27: "pointer must never exceed 16". -/
def State.SpBounded (s : State) : Prop := s.sp.toNat ≤ 16

/-- The instruction the next fetch would give. -/
def State.nextInstr (s : State) : Option Instr := s.fetch.bind decode

/-- The invariants of the core that every run keeps. -/
structure State.Inv (s : State) : Prop where
  /-- Memory is in its canonical form. -/
  memory : s.mem.wf = true
  /-- R27. -/
  spBounded : s.SpBounded
  /-- R26, R93: every stack entry is a call's address plus 2, at most 0x1000 (or still its reset value). -/
  stackBounded : ∀ k : Fin 16, s.stk[k].toNat ≤ 0x1000
  /-- R25: "the largest value PC can reach is 0xFFE + 4 = 0x1002". -/
  pcBounded : s.pc.toNat ≤ 0x1002
  /-- R36, R181: a fault code is recorded exactly when the core is halted. -/
  errIffHalted : s.err ≠ .none ↔ s.mode = .halted
  /-- R37: ERRINFO is written only together with ERR. -/
  errinfoClear : s.err = .none → s.errinfo = 0x0000
  /-- R24, R35: while waiting, PC addresses the `Fx0A` that waits, and WAITX is its x field. -/
  waiting : s.mode = .awaitingKey → s.nextInstr = some (.ldVxK s.waitx)

/-- The table of R180, row by row: in this state, in mode Running, the tick raises the fault with this code and this information.
The legal words are those of R76's own table (`legalWord`), and the range check is R60's, in numbers. -/
def State.FaultDue (s : State) : ErrCode → Word → Prop
  | .none, _ => False
  | .fetchOutOfBounds, info => 0xFFE < s.pc.toNat ∧ info = s.pc
  | .illegalInstruction, info => s.fetch = some info ∧ legalWord info = false
  | .stackOverflow, info => s.sp = 16 ∧ ∃ nnn, s.nextInstr = some (.call nnn) ∧ info.toNat = nnn.toNat
  | .stackUnderflow, info => s.sp = 0 ∧ s.nextInstr = some .ret ∧ info = 0x0000
  | .dataAddressOutOfBounds, info => ∃ i, s.nextInstr = some i ∧ 1 ≤ dataBytes i ∧ 0xFFF < s.i.toNat + dataBytes i - 1 ∧
      info.toNat = max s.i.toNat 0x1000
  | .keyIndexOutOfRange, info => ∃ x, (s.nextInstr = some (.skp x) ∨ s.nextInstr = some (.sknp x)) ∧
      15 < (s.reg x).toNat ∧ info.toNat = (s.reg x).toNat

/-- A halted core tells the truth about its fault (R37, R180, R225): the state it is frozen in is one in which that fault is due,
with that information. -/
def State.HaltTruth (s : State) : Prop := s.err = .none ∨ s.FaultDue s.err s.errinfo

/-! ### Where a tick looks at its inputs -/

/-- The tick reads `KEYS` (R38): an await step, or one of `Ex9E`, `ExA1`, `Fx0A`. -/
def State.readsKeys (s : State) : Prop :=
  s.mode = .awaitingKey ∨
    s.mode = .running ∧ ∃ x, s.nextInstr = some (.skp x) ∨ s.nextInstr = some (.sknp x) ∨ s.nextInstr = some (.ldVxK x)

/-- The tick reads `RND` (R39): it executes `Cxkk`. -/
def State.readsRnd (s : State) : Prop := s.mode = .running ∧ ∃ x kk, s.nextInstr = some (.rnd x kk)

/-! ### Runs -/

/-- The same state with other inputs to come: another host (R225). -/
def State.withInputs (s : State) (inputs : List TickInput) : State := { s with inputs := inputs }

/-- The states of the runs of the core: from the reset state of any font and any program the loader accepts, under any inputs, by
steps. -/
inductive Reachable : State → Prop where
  | start (font : Vector Byte 80) (prog : List Byte) (inputs : List TickInput) (h : progOk prog = true) :
      Reachable ((State.resetWith font prog).withInputs inputs)
  | step (s t : State) (hs : Reachable s) (h : Sys2Proof.Machine.step s = .next t) : Reachable t

/-- The model's own notion of the end of a run (70_reset_and_hazards.md R215, decision D30): Running with no fault, at a jump to its
own address. -/
def State.AtEnd (s : State) : Prop :=
  s.mode = .running ∧ s.err = .none ∧ ∃ nnn, s.nextInstr = some (.jp nnn) ∧ zextAddr nnn = s.pc

end Sys2Proof.Machine
end

