-- ==== Sys2Proof/Certificates/Slice0/Obligations.lean ====
section
/-! DEFINITION. The statements for the provers, from the spec's numbered rules. A statement about one instruction says that its word
decodes to it (30_encoding.md R74), that `exec` answers a next state under hypotheses on the state and operands alone, what that
state holds, and by `FrameBut` that everything else is as it was. -/

open Sys2Proof Sys2Proof.Machine

/-! ### Encoding -/

/-- R70 to R74: the decoder reads every encoded instruction back, every operand at every value. -/
def Obligations.DecodeOfEncodeIsIdentity : Prop := ∀ i : Instr, decode (encode i) = some i

/-- R73, R74: a word that decodes to an instruction is the word of that instruction: each legal word has one meaning. -/
def Obligations.EncodeOfDecodeIsIdentity : Prop := ∀ (w : Word) (i : Instr), decode w = some i → encode i = w

/-- R74: the opcode map, row by row, as mask, match and fields of the word (R8, R71). -/
def Obligations.OpcodeMapDecodesEveryRow : Prop :=
  ∀ w : Word,
    let x : RegIdx := w.extractLsb' 8 4
    let y : RegIdx := w.extractLsb' 4 4
    let n : Count := w.extractLsb' 0 4
    let kk : Byte := w.extractLsb' 0 8
    let nnn : Addr := w.extractLsb' 0 12
    (w &&& 0xFFFF = 0x00E0 → decode w = some .cls) ∧ (w &&& 0xFFFF = 0x00EE → decode w = some .ret) ∧
    (w &&& 0xF000 = 0x1000 → decode w = some (.jp nnn)) ∧ (w &&& 0xF000 = 0x2000 → decode w = some (.call nnn)) ∧
    (w &&& 0xF000 = 0x3000 → decode w = some (.seImm x kk)) ∧ (w &&& 0xF000 = 0x4000 → decode w = some (.sneImm x kk)) ∧
    (w &&& 0xF00F = 0x5000 → decode w = some (.seReg x y)) ∧ (w &&& 0xF000 = 0x6000 → decode w = some (.ldImm x kk)) ∧
    (w &&& 0xF000 = 0x7000 → decode w = some (.addImm x kk)) ∧ (w &&& 0xF00F = 0x8000 → decode w = some (.ldReg x y)) ∧
    (w &&& 0xF00F = 0x8001 → decode w = some (.orReg x y)) ∧ (w &&& 0xF00F = 0x8002 → decode w = some (.andReg x y)) ∧
    (w &&& 0xF00F = 0x8003 → decode w = some (.xorReg x y)) ∧ (w &&& 0xF00F = 0x8004 → decode w = some (.addReg x y)) ∧
    (w &&& 0xF00F = 0x8005 → decode w = some (.sub x y)) ∧ (w &&& 0xF00F = 0x8006 → decode w = some (.shr x y)) ∧
    (w &&& 0xF00F = 0x8007 → decode w = some (.subn x y)) ∧ (w &&& 0xF00F = 0x800E → decode w = some (.shl x y)) ∧
    (w &&& 0xF00F = 0x9000 → decode w = some (.sneReg x y)) ∧ (w &&& 0xF000 = 0xA000 → decode w = some (.ldI nnn)) ∧
    (w &&& 0xF000 = 0xC000 → decode w = some (.rnd x kk)) ∧ (w &&& 0xF000 = 0xD000 → decode w = some (.drw x y n)) ∧
    (w &&& 0xF0FF = 0xE09E → decode w = some (.skp x)) ∧ (w &&& 0xF0FF = 0xE0A1 → decode w = some (.sknp x)) ∧
    (w &&& 0xF0FF = 0xF007 → decode w = some (.ldVxDt x)) ∧ (w &&& 0xF0FF = 0xF00A → decode w = some (.ldVxK x)) ∧
    (w &&& 0xF0FF = 0xF015 → decode w = some (.ldDtVx x)) ∧ (w &&& 0xF0FF = 0xF018 → decode w = some (.ldStVx x)) ∧
    (w &&& 0xF0FF = 0xF01E → decode w = some (.addI x)) ∧ (w &&& 0xF0FF = 0xF029 → decode w = some (.ldF x)) ∧
    (w &&& 0xF0FF = 0xF033 → decode w = some (.ldB x)) ∧ (w &&& 0xF0FF = 0xF055 → decode w = some (.ldMemVx x)) ∧
    (w &&& 0xF0FF = 0xF065 → decode w = some (.ldVxMem x))

/-- R76: the words the decoder rejects are exactly those of the table of illegal words. -/
def Obligations.IllegalWordsAreThoseListed : Prop := ∀ w : Word, decode w = none ↔ legalWord w = false

/-- R74: one word of each family, written out from its pattern, decodes to the instruction it stands for. -/
def Obligations.SampleWordsDecode : Prop :=
  decode 0x2300 = some (.call 0x300) ∧ decode 0x332A = some (.seImm 0x3 0x2A) ∧ decode 0x8125 = some (.sub 0x1 0x2) ∧
  decode 0xF21E = some (.addI 0x2) ∧ decode 0xD015 = some (.drw 0x0 0x1 0x5) ∧ decode 0xE59E = some (.skp 0x5) ∧
  decode 0xF215 = some (.ldDtVx 0x2) ∧ decode 0xF033 = some (.ldB 0x0)

/-! ### The tick -/

/-- R9: when the two bytes at PC decode to an instruction, a step in mode Running is `exec` of it, and then, unless a fault was
raised, the timers count down and the tick's inputs are used up (`dropInput`: the model's own, notes/assumptions/1.md, 3.md). -/
def Obligations.StepRunsDecodedInstruction : Prop :=
  ∀ (s : State) (i : Instr), s.mode = .running → s.pc.toNat ≤ 0xFFE →
    decode (s.mem.read s.pc.toNat ++ s.mem.read (s.pc.toNat + 1)) = some i →
    step s = match exec i s with
      | .next t => .next (if t.mode = .halted then t else t.countdown.dropInput)
      | .fault f => .fault f
      | .refused r => .refused r

/-- R53: the fetch gives the byte at the lower address in bits 15 to 8, needs no alignment, and out of bounds it halts the core. -/
def Obligations.FetchReadsTwoBytesOrHalts : Prop :=
  ∀ s : State,
    (s.pc.toNat ≤ 0xFFE → ∃ w, s.fetch = some w ∧ w.extractLsb' 8 8 = s.mem.read s.pc.toNat ∧
      w.extractLsb' 0 8 = s.mem.read (s.pc.toNat + 1)) ∧
    (0xFFE < s.pc.toNat → s.mode = .running → ∃ t, step s = .next t ∧ Faulted s t .fetchOutOfBounds s.pc)

/-- R184: a fetched illegal word halts the core, with the word in ERRINFO, PC still addressing it, and nothing else changed. -/
def Obligations.IllegalWordHalts : Prop :=
  ∀ (s : State) (w : Word), s.mode = .running → s.fetch = some w → legalWord w = false →
    ∃ t, step s = .next t ∧ Faulted s t .illegalInstruction w

/-- R182: in mode Halted every tick is a no-op. -/
def Obligations.HaltedTickChangesNothing : Prop := ∀ s : State, s.mode = .halted → step s = .next s

/-- R153: a tick that starts in AwaitingKey fetches nothing; with no key down only the timers move, with a key down the lowest one
goes to V[WAITX], PC advances by 2 and the core runs again; the timers count down in either case. -/
def Obligations.AwaitTickWaitsOrResolves : Prop :=
  ∀ s : State, s.mode = .awaitingKey → ∃ t, step s = .next t ∧
    (s.keys = 0 → FrameBut [.dt, .st, .inputs] s t) ∧
    (∀ k : BitVec 4, s.keys.getLsbD k.toNat = true → (∀ j, j < k.toNat → s.keys.getLsbD j = false) →
      t.mode = .running ∧ t.pc = s.pc + 2 ∧ (∀ r, (t.reg r).toNat = if r = s.waitx then k.toNat else (s.reg r).toNat) ∧
      FrameBut [.v, .pc, .mode, .dt, .st, .inputs] s t) ∧
    t.dt.toNat = s.dt.toNat - 1 ∧ t.st.toNat = s.st.toNat - 1

/-- R160: each timer counts down by one, staying at 0, at the end of every tick that did not start Halted and raised no fault, after
the instruction or the await step has had its effect, and the countdown changes nothing else; on a tick that faults and in mode Halted
neither moves. `State.awaitStep` is R153's step, whose own effect `AwaitTickWaitsOrResolves` states. -/
def Obligations.TimersCountDownOncePerTick : Prop :=
  (∀ (s u : State) (i : Instr), s.mode = .running → s.nextInstr = some i → exec i s = .next u → u.mode ≠ .halted →
    ∃ t, step s = .next t ∧ t.dt.toNat = u.dt.toNat - 1 ∧ t.st.toNat = u.st.toNat - 1 ∧ FrameBut [.dt, .st, .inputs] u t) ∧
  (∀ s t : State, s.mode = .awaitingKey → step s = .next t → t.dt.toNat = s.dt.toNat - 1 ∧ t.st.toNat = s.st.toNat - 1 ∧
    FrameBut [.dt, .st, .inputs] s.awaitStep t) ∧
  (∀ s t : State, step s = .next t → t.mode = .halted → t.dt = s.dt ∧ t.st = s.st)

/-- R181: a step that halts a core that was not halted records the code and the information of a fault that is due in the state before
it, and changes nothing else: no partial effect, PC where it was, no timer decrement. The frame also keeps the model's own inputs, which
a faulting tick does not use up: that clause is the model's choice (notes/assumptions/3.md), not R181's. -/
def Obligations.FaultsArePrecise : Prop :=
  ∀ s t : State, step s = .next t → s.mode ≠ .halted → t.mode = .halted →
    s.FaultDue t.err t.errinfo ∧ FrameBut [.mode, .err, .errinfo] s t

/-- R180: a Running tick halts the core exactly when a row of the fault table applies, with that row's code, its number and its
information; no other condition faults. The premise is R27's bound on SP, an invariant of every run (`StepKeepsInvariants`). -/
def Obligations.FaultsAreExactlyThoseOfTheTable : Prop :=
  ∀ s t : State, s.SpBounded → s.mode = .running → step s = .next t →
    (t.mode = .halted ↔ ∃ code info, s.FaultDue code info) ∧
    (∀ code info, s.FaultDue code info → t.err = code ∧ t.errinfo = info) ∧
    ErrCode.none.toBits = 0 ∧ ErrCode.fetchOutOfBounds.toBits = 1 ∧ ErrCode.illegalInstruction.toBits = 2 ∧
    ErrCode.stackOverflow.toBits = 3 ∧ ErrCode.stackUnderflow.toBits = 4 ∧ ErrCode.dataAddressOutOfBounds.toBits = 5 ∧
    ErrCode.keyIndexOutOfRange.toBits = 6

/-- R188, an inference the spec marks as its own: at most one fault applies in a state, so no priority among them is needed. -/
def Obligations.AtMostOneFaultIsDue : Prop :=
  ∀ (s : State) (c c' : ErrCode) (a a' : Word), s.FaultDue c a → s.FaultDue c' a' → c = c' ∧ a = a'

/-- R34: the transitions of MODE: Running to AwaitingKey only at `Fx0A` with no key down, AwaitingKey to Running exactly when a key is
down, and never to Halted; Halted to nothing else. -/
def Obligations.ModeTransitionsAreThoseListed : Prop :=
  ∀ s t : State, step s = .next t →
    (s.mode = .running → (t.mode = .awaitingKey ↔ s.keys = 0 ∧ ∃ x, s.nextInstr = some (.ldVxK x))) ∧
    (s.mode = .awaitingKey → t.mode = if s.keys = 0 then .awaitingKey else .running) ∧
    (s.mode = .halted → t.mode = .halted)

/-! ### Reset and invariants -/

/-- R210: the reset state of any font and any program the loader accepts. -/
def Obligations.ResetStateIsAsListed : Prop :=
  ∀ (font : Vector Byte 80) (prog : List Byte), progOk prog = true → ∃ s, boot font prog = some s ∧
    (∀ r, s.reg r = 0x00) ∧ s.i = 0x0000 ∧ s.pc = 0x0200 ∧ s.sp = 0 ∧ (∀ k : Fin 16, s.stk[k] = 0x0000) ∧
    s.dt = 0x00 ∧ s.st = 0x00 ∧ (∀ r c, pixel s.fb r c = false) ∧
    (∀ k : Fin 80, s.mem.read k.val = font[k]) ∧
    (∀ k : Fin prog.length, s.mem.read (0x200 + k.val) = prog[k]) ∧
    (∀ a, 80 ≤ a → ¬ (0x200 ≤ a ∧ a < 0x200 + prog.length) → s.mem.read a = 0x00) ∧
    s.mode = .running ∧ s.waitx = 0 ∧ s.err = .none ∧ s.errinfo = 0x0000

/-- The model's choice (notes/assumptions/4.md, 5.md): `State.reset` is the reset state with the default font and no program. -/
def Obligations.ResetHoldsDefaultFontAndNoProgram : Prop := State.reset = State.resetWith Config.font []

/-- The invariants hold at reset. -/
def Obligations.ResetSatisfiesInvariants : Prop := State.reset.Inv

/-- The invariants hold at the start of every run: any font, any program the loader accepts, any inputs. -/
def Obligations.EveryStartSatisfiesInvariants : Prop :=
  ∀ (font : Vector Byte 80) (prog : List Byte) (inputs : List TickInput), progOk prog = true →
    ((State.resetWith font prog).withInputs inputs).Inv

/-- Every step keeps the invariants: canonical memory, SP at most 16 (R27), stack entries at most 0x1000 (R93), PC at most 0x1002
(R25), ERR recorded exactly when Halted (R36), and while waiting PC addressing the `Fx0A` whose x field WAITX holds (R24, R35). -/
def Obligations.StepKeepsInvariants : Prop := ∀ s t : State, s.Inv → step s = .next t → t.Inv

/-- R37, R180, R225: what ERR and ERRINFO say of a halted core is true of the state it is frozen in, and every step keeps that. -/
def Obligations.StepKeepsHaltTruth : Prop := ∀ s t : State, s.Inv → s.HaltTruth → step s = .next t → t.HaltTruth

/-- R180, R188: no step stops outside the spec's own faults: with SP at most 16 (R27) every step answers a next state. -/
def Obligations.StepNeverStops : Prop := ∀ s : State, s.SpBounded → ∃ t, step s = .next t

/-- Every state of every run satisfies the invariants, tells the truth about its fault, and has a next state. -/
def Obligations.RunsNeverLeaveTheInvariants : Prop :=
  ∀ s : State, Reachable s → s.Inv ∧ s.HaltTruth ∧ ∃ t, step s = .next t

/-! ### Whole-machine rules -/

/-- R21 to R31, R51: what each instruction leaves alone: every piece of state its rule does not name, every general register but its
destinations, every byte but those it stores to. -/
def Obligations.InstructionsWriteOnlyWhatTheirRulesName : Prop :=
  ∀ (i : Instr) (s t : State), exec i s = .next t →
    (∀ f, f ∉ writesField i → f ≠ .v → f ≠ .mem → Unchanged s t f) ∧
    (∀ r, writesReg i r = false → t.reg r = s.reg r) ∧
    (∀ a, storesAt i s a = false → t.mem.read a = s.mem.read a)

/-- R31: the framebuffer is mutated only by clear and draw-sprite instructions. -/
def Obligations.OnlyClearAndDrawChangePixels : Prop :=
  ∀ s t : State, step s = .next t → (∃ r c, pixel t.fb r c ≠ pixel s.fb r c) →
    s.mode = .running ∧ (s.nextInstr = some .cls ∨ ∃ x y n, s.nextInstr = some (.drw x y n))

/-- R51, R60: a byte of memory changes only in a tick that executes `Fx33` or `Fx55`, inside its range, and only inside memory. -/
def Obligations.OnlyStoresChangeMemory : Prop :=
  ∀ (s t : State) (a : Nat), step s = .next t → t.mem.read a ≠ s.mem.read a →
    s.mode = .running ∧ ∃ x, (s.nextInstr = some (.ldB x) ∧ a ≤ s.i.toNat + 2 ∨
      s.nextInstr = some (.ldMemVx x) ∧ a ≤ s.i.toNat + x.toNat) ∧ s.i.toNat ≤ a ∧ a ≤ 0xFFF

/-- R224: KEYS matter only in a tick that executes `Ex9E`, `ExA1`, `Fx0A` or an await step, RND only in one that executes `Cxkk`: two
hosts whose inputs agree where the tick reads them get the same state. -/
def Obligations.InputsMatterOnlyWhereRead : Prop :=
  ∀ (s : State) (a b : List TickInput),
    (s.readsKeys → (s.withInputs a).keys = (s.withInputs b).keys) → (s.readsRnd → (s.withInputs a).rnd = (s.withInputs b).rnd) →
    ∀ t, step (s.withInputs a) = .next t → ∃ u, step (s.withInputs b) = .next u ∧ FrameBut [.inputs] t u

/-- R215: at a jump to its own address nothing but the timers changes, tick after tick, and the timers reach 0 and stay there. -/
def Obligations.SelfJumpOnlyCountsTimers : Prop :=
  ∀ (n : Nat) (s : State), s.AtEnd → ∃ t, Sys2Proof.core.run n s = .next t ∧ t.AtEnd ∧
    t.dt.toNat = s.dt.toNat - n ∧ t.st.toNat = s.st.toNat - n ∧ FrameBut [.dt, .st, .inputs] s t

/-- R11, R65: each of the six output ports shows its piece of state. Bit r * 64 + c of FB is `FB[r][c]` (R31); MODE is 0, 1 or 2 exactly
in Running, AwaitingKey and Halted (R34); ERR is the code of R180 for each fault; ERRINFO, DT and ST are those registers. The numbers
stand in port functions over named values (notes/assumptions/15.md). -/
def Obligations.PortsShowTheState : Prop :=
  ∀ s : State, (∀ (r : Fin 32) (c : Fin 64), s.outFb.getLsbD (r.val * 64 + c.val) = pixel s.fb r c) ∧
    (s.outMode = 0 ↔ s.mode = .running) ∧ (s.outMode = 1 ↔ s.mode = .awaitingKey) ∧ (s.outMode = 2 ↔ s.mode = .halted) ∧
    (s.outErr = 0 ↔ s.err = .none) ∧ (s.outErr = 1 ↔ s.err = .fetchOutOfBounds) ∧ (s.outErr = 2 ↔ s.err = .illegalInstruction) ∧
    (s.outErr = 3 ↔ s.err = .stackOverflow) ∧ (s.outErr = 4 ↔ s.err = .stackUnderflow) ∧
    (s.outErr = 5 ↔ s.err = .dataAddressOutOfBounds) ∧ (s.outErr = 6 ↔ s.err = .keyIndexOutOfRange) ∧
    s.outMode ≠ 3 ∧ s.outErr ≠ 7 ∧ s.outErrInfo = s.errinfo ∧ s.outDt = s.dt ∧ s.outSt = s.st

/-! ### Control flow (40_control_flow.md) -/

/-- R91. -/
def Obligations.ReturnPopsTheStack : Prop :=
  decode 0x00EE = some .ret ∧
  ∀ s : State,
    (s.sp = 0 → ∃ t, exec .ret s = .next t ∧ Faulted s t .stackUnderflow 0x0000) ∧
    (∀ k : Fin 16, s.sp.toNat = k.val + 1 →
      ∃ t, exec .ret s = .next t ∧ t.sp.toNat = k.val ∧ t.pc = s.stk[k] ∧ FrameBut [.sp, .pc] s t)

/-- R92. -/
def Obligations.JumpSetsPc : Prop :=
  ∀ (nnn : Addr) (s : State), decode (0x1#4 ++ nnn) = some (.jp nnn) ∧
    ∃ t, exec (.jp nnn) s = .next t ∧ t.pc.toNat = nnn.toNat ∧ FrameBut [.pc] s t

/-- R93. -/
def Obligations.CallPushesTheReturnAddress : Prop :=
  ∀ (nnn : Addr) (s : State), decode (0x2#4 ++ nnn) = some (.call nnn) ∧
    (∀ k : Fin 16, s.sp.toNat = k.val →
      ∃ t, exec (.call nnn) s = .next t ∧ (∀ j : Fin 16, t.stk[j] = if j = k then s.pc + 2 else s.stk[j]) ∧
        t.sp.toNat = k.val + 1 ∧ t.pc.toNat = nnn.toNat ∧ FrameBut [.stk, .sp, .pc] s t) ∧
    (s.sp = 16 → ∃ (t : State) (info : Word), exec (.call nnn) s = .next t ∧ info.toNat = nnn.toNat ∧
      Faulted s t .stackOverflow info)

/-- The model's choice (notes/assumptions/7.md): with an `SP` above 16, for which the spec gives no effect (R27), a return and a call
stop by name. No run reaches such a state (`StepKeepsInvariants`). -/
def Obligations.StackPointerAboveSixteenStops : Prop :=
  ∀ (nnn : Addr) (s : State), 16 < s.sp.toNat →
    exec .ret s = .fault .stackPointerOutOfRange ∧ exec (.call nnn) s = .fault .stackPointerOutOfRange

/-- R91, R93 and the source's testable property (conflict C1): a call followed at once by a return leaves PC at the instruction after
the call and SP as before. -/
def Obligations.CallThenReturnComesBack : Prop :=
  ∀ (nnn : Addr) (s : State), s.sp.toNat < 16 → ∃ t u, exec (.call nnn) s = .next t ∧ exec .ret t = .next u ∧
    u.pc = s.pc + 2 ∧ u.sp = s.sp ∧ FrameBut [.pc, .sp, .stk] s u

/-! ### Skips (41_skips.md) -/

/-- R101, R102. -/
def Obligations.SkipsOnImmediate : Prop :=
  ∀ (x : RegIdx) (kk : Byte) (s : State),
    decode (0x3#4 ++ x ++ kk) = some (.seImm x kk) ∧ decode (0x4#4 ++ x ++ kk) = some (.sneImm x kk) ∧
    (∃ t, exec (.seImm x kk) s = .next t ∧ t.pc = (if (s.reg x).toNat = kk.toNat then s.pc + 4 else s.pc + 2) ∧ FrameBut [.pc] s t) ∧
    (∃ t, exec (.sneImm x kk) s = .next t ∧ t.pc = (if (s.reg x).toNat = kk.toNat then s.pc + 2 else s.pc + 4) ∧ FrameBut [.pc] s t)

/-- R103, R104. -/
def Obligations.SkipsOnRegister : Prop :=
  ∀ (x y : RegIdx) (s : State),
    decode (0x5#4 ++ x ++ y ++ 0x0#4) = some (.seReg x y) ∧ decode (0x9#4 ++ x ++ y ++ 0x0#4) = some (.sneReg x y) ∧
    (∃ t, exec (.seReg x y) s = .next t ∧ t.pc = (if (s.reg x).toNat = (s.reg y).toNat then s.pc + 4 else s.pc + 2) ∧
      FrameBut [.pc] s t) ∧
    (∃ t, exec (.sneReg x y) s = .next t ∧ t.pc = (if (s.reg x).toNat = (s.reg y).toNat then s.pc + 2 else s.pc + 4) ∧
      FrameBut [.pc] s t)

/-! ### Load and arithmetic (42_alu.md) -/

/-- R111, R112. -/
def Obligations.LoadAndAddImmediate : Prop :=
  ∀ (x : RegIdx) (kk : Byte) (s : State),
    decode (0x6#4 ++ x ++ kk) = some (.ldImm x kk) ∧ decode (0x7#4 ++ x ++ kk) = some (.addImm x kk) ∧
    (∃ t, exec (.ldImm x kk) s = .next t ∧ (∀ r, t.reg r = if r = x then kk else s.reg r) ∧ t.pc = s.pc + 2 ∧
      FrameBut [.v, .pc] s t) ∧
    (∃ t, exec (.addImm x kk) s = .next t ∧
      (∀ r, (t.reg r).toNat = if r = x then ((s.reg x).toNat + kk.toNat) % 256 else (s.reg r).toNat) ∧ t.pc = s.pc + 2 ∧
      FrameBut [.v, .pc] s t)

/-- R114 to R117: the copy and, bit by bit, the three bitwise operations; VF is no exception. -/
def Obligations.CopyAndBitwise : Prop :=
  ∀ (x y : RegIdx) (s : State),
    decode (0x8#4 ++ x ++ y ++ 0x0#4) = some (.ldReg x y) ∧ decode (0x8#4 ++ x ++ y ++ 0x1#4) = some (.orReg x y) ∧
    decode (0x8#4 ++ x ++ y ++ 0x2#4) = some (.andReg x y) ∧ decode (0x8#4 ++ x ++ y ++ 0x3#4) = some (.xorReg x y) ∧
    (∃ t, exec (.ldReg x y) s = .next t ∧ t.reg x = s.reg y ∧ (∀ r, r ≠ x → t.reg r = s.reg r) ∧ t.pc = s.pc + 2 ∧
      FrameBut [.v, .pc] s t) ∧
    (∃ t, exec (.orReg x y) s = .next t ∧ (∀ b, (t.reg x).getLsbD b = ((s.reg x).getLsbD b || (s.reg y).getLsbD b)) ∧
      (∀ r, r ≠ x → t.reg r = s.reg r) ∧ t.pc = s.pc + 2 ∧ FrameBut [.v, .pc] s t) ∧
    (∃ t, exec (.andReg x y) s = .next t ∧ (∀ b, (t.reg x).getLsbD b = ((s.reg x).getLsbD b && (s.reg y).getLsbD b)) ∧
      (∀ r, r ≠ x → t.reg r = s.reg r) ∧ t.pc = s.pc + 2 ∧ FrameBut [.v, .pc] s t) ∧
    (∃ t, exec (.xorReg x y) s = .next t ∧ (∀ b, (t.reg x).getLsbD b = ((s.reg x).getLsbD b ^^ (s.reg y).getLsbD b)) ∧
      (∀ r, r ≠ x → t.reg r = s.reg r) ∧ t.pc = s.pc + 2 ∧ FrameBut [.v, .pc] s t)

/-- R118, with the order of R120: the flag is written last, so VF ends holding it whatever x is. -/
def Obligations.AdditionSetsCarry : Prop :=
  ∀ (x y : RegIdx) (s : State), decode (0x8#4 ++ x ++ y ++ 0x4#4) = some (.addReg x y) ∧
    ∃ t, exec (.addReg x y) s = .next t ∧
      (∀ r, (t.reg r).toNat =
        if r = 0xF then (if (s.reg x).toNat + (s.reg y).toNat > 255 then 1 else 0)
        else if r = x then ((s.reg x).toNat + (s.reg y).toNat) % 256 else (s.reg r).toNat) ∧
      t.pc = s.pc + 2 ∧ FrameBut [.v, .pc] s t

/-- R119, R122, with the order of R120: wrapping difference, then the not-borrow flag. -/
def Obligations.SubtractionsSetNotBorrow : Prop :=
  ∀ (x y : RegIdx) (s : State),
    decode (0x8#4 ++ x ++ y ++ 0x5#4) = some (.sub x y) ∧ decode (0x8#4 ++ x ++ y ++ 0x7#4) = some (.subn x y) ∧
    (∃ t, exec (.sub x y) s = .next t ∧
      (∀ r, (t.reg r).toNat =
        if r = 0xF then (if (s.reg x).toNat ≥ (s.reg y).toNat then 1 else 0)
        else if r = x then ((s.reg x).toNat + 256 - (s.reg y).toNat) % 256 else (s.reg r).toNat) ∧
      t.pc = s.pc + 2 ∧ FrameBut [.v, .pc] s t) ∧
    (∃ t, exec (.subn x y) s = .next t ∧
      (∀ r, (t.reg r).toNat =
        if r = 0xF then (if (s.reg y).toNat ≥ (s.reg x).toNat then 1 else 0)
        else if r = x then ((s.reg y).toNat + 256 - (s.reg x).toNat) % 256 else (s.reg r).toNat) ∧
      t.pc = s.pc + 2 ∧ FrameBut [.v, .pc] s t)

/-- R121, R123, with the order of R120: Vx shifted in place by one, Vy not read, then the bit shifted out. -/
def Obligations.ShiftsSetTheBitShiftedOut : Prop :=
  ∀ (x y : RegIdx) (s : State),
    decode (0x8#4 ++ x ++ y ++ 0x6#4) = some (.shr x y) ∧ decode (0x8#4 ++ x ++ y ++ 0xE#4) = some (.shl x y) ∧
    (∃ t, exec (.shr x y) s = .next t ∧
      (∀ r, (t.reg r).toNat =
        if r = 0xF then (s.reg x).toNat % 2 else if r = x then (s.reg x).toNat / 2 else (s.reg r).toNat) ∧
      t.pc = s.pc + 2 ∧ FrameBut [.v, .pc] s t) ∧
    (∃ t, exec (.shl x y) s = .next t ∧
      (∀ r, (t.reg r).toNat =
        if r = 0xF then (s.reg x).toNat / 128 else if r = x then (s.reg x).toNat * 2 % 256 else (s.reg r).toNat) ∧
      t.pc = s.pc + 2 ∧ FrameBut [.v, .pc] s t)

/-! ### Address register and random (43_index_random.md) -/

/-- R131, R133, R134: the three writers of I; none writes VF or faults, whatever I becomes. -/
def Obligations.AddressRegisterWrites : Prop :=
  ∀ (x : RegIdx) (nnn : Addr) (s : State),
    decode (0xA#4 ++ nnn) = some (.ldI nnn) ∧ decode (0xF#4 ++ x ++ 0x1E#8) = some (.addI x) ∧
    decode (0xF#4 ++ x ++ 0x29#8) = some (.ldF x) ∧
    (∃ t, exec (.ldI nnn) s = .next t ∧ t.i.toNat = nnn.toNat ∧ t.pc = s.pc + 2 ∧ FrameBut [.i, .pc] s t) ∧
    (∃ t, exec (.addI x) s = .next t ∧ t.i.toNat = (s.i.toNat + (s.reg x).toNat) % 65536 ∧ t.pc = s.pc + 2 ∧
      FrameBut [.i, .pc] s t) ∧
    (∃ t, exec (.ldF x) s = .next t ∧ t.i.toNat = (s.reg x).toNat * 5 ∧ t.pc = s.pc + 2 ∧ FrameBut [.i, .pc] s t)

/-- R132: whatever byte RND is in this tick, Vx receives its bits where kk has a 1 and 0 elsewhere. -/
def Obligations.RandomIsMaskedByKK : Prop :=
  ∀ (x : RegIdx) (kk : Byte) (s : State), decode (0xC#4 ++ x ++ kk) = some (.rnd x kk) ∧
    ∃ t, exec (.rnd x kk) s = .next t ∧ (∀ b, (t.reg x).getLsbD b = (kk.getLsbD b && s.rnd.getLsbD b)) ∧
      (∀ r, r ≠ x → t.reg r = s.reg r) ∧ t.pc = s.pc + 2 ∧ FrameBut [.v, .pc] s t

/-! ### Display (44_display.md) -/

/-- R141. -/
def Obligations.ClearScreenClearsEveryPixel : Prop :=
  decode 0x00E0 = some .cls ∧
  ∀ s : State, ∃ t, exec .cls s = .next t ∧ (∀ r c, pixel t.fb r c = false) ∧ t.pc = s.pc + 2 ∧ FrameBut [.fb, .pc] s t

/-- R142: with the sprite's bytes in memory (or n = 0), each sprite bit is XORed onto the pixel at ((Vy mod 32 + r) mod 32, (Vx mod 64 +
c) mod 64), every other pixel stays, and VF says whether a set pixel was erased; Vx and Vy are the values before VF is written. With a sprite byte
outside memory the fault, and nothing drawn. -/
def Obligations.DrawXorsTheSprite : Prop :=
  ∀ (x y : RegIdx) (n : Count) (s : State), decode (0xD#4 ++ x ++ y ++ n) = some (.drw x y n) ∧
    (1 ≤ n.toNat → 0xFFF < s.i.toNat + n.toNat - 1 → ∃ (t : State) (a : Word), exec (.drw x y n) s = .next t ∧
      a.toNat = max s.i.toNat 0x1000 ∧ Faulted s t .dataAddressOutOfBounds a) ∧
    (n = 0 ∨ s.i.toNat + n.toNat - 1 ≤ 0xFFF →
      let row (r : Nat) : Fin 32 := ⟨((s.reg y).toNat % 32 + r) % 32, Nat.mod_lt _ (by decide)⟩
      let col (c : Nat) : Fin 64 := ⟨((s.reg x).toNat % 64 + c) % 64, Nat.mod_lt _ (by decide)⟩
      let bit (r c : Nat) : Bool := (s.mem.read (s.i.toNat + r)).getLsbD (7 - c)
      ∃ t, exec (.drw x y n) s = .next t ∧
        (∀ r c, r < n.toNat → c < 8 → pixel t.fb (row r) (col c) = (pixel s.fb (row r) (col c) ^^ bit r c)) ∧
        (∀ p q, (∀ r c, r < n.toNat → c < 8 → ¬ (p = row r ∧ q = col c)) → pixel t.fb p q = pixel s.fb p q) ∧
        ((∃ r c, r < n.toNat ∧ c < 8 ∧ bit r c = true ∧ pixel s.fb (row r) (col c) = true) → t.reg 0xF = 0x01) ∧
        ((∀ r c, r < n.toNat → c < 8 → bit r c = true → pixel s.fb (row r) (col c) = false) → t.reg 0xF = 0x00) ∧
        (∀ r, r ≠ 0xF → t.reg r = s.reg r) ∧ t.pc = s.pc + 2 ∧ FrameBut [.v, .fb, .pc] s t)

/-- R143 (b), a property the spec lists as following from R142: a sprite drawn on a cleared screen is exactly the sprite's bit pattern, and VF is 0. -/
def Obligations.ClearThenDrawShowsTheSprite : Prop :=
  ∀ (x y : RegIdx) (n : Count) (s : State), n = 0 ∨ s.i.toNat + n.toNat - 1 ≤ 0xFFF →
    let row (r : Nat) : Fin 32 := ⟨((s.reg y).toNat % 32 + r) % 32, Nat.mod_lt _ (by decide)⟩
    let col (c : Nat) : Fin 64 := ⟨((s.reg x).toNat % 64 + c) % 64, Nat.mod_lt _ (by decide)⟩
    ∃ t u, exec .cls s = .next t ∧ exec (.drw x y n) t = .next u ∧ u.reg 0xF = 0x00 ∧
      (∀ r c, r < n.toNat → c < 8 → pixel u.fb (row r) (col c) = (s.mem.read (s.i.toNat + r)).getLsbD (7 - c)) ∧
      (∀ p q, (∀ r c, r < n.toNat → c < 8 → ¬ (p = row r ∧ q = col c)) → pixel u.fb p q = false)

/-- R143 (c), first half: drawing the same sprite at the same place twice restores the screen. Its second half as R142 gives it: VF is
1 after the second draw exactly when some sprite bit of 1 met a pixel that was 0 before the first. The place is the same only when
neither coordinate is VF. -/
def Obligations.DrawTwiceRestoresTheScreen : Prop :=
  ∀ (x y : RegIdx) (n : Count) (s : State), x ≠ 0xF → y ≠ 0xF → (n = 0 ∨ s.i.toNat + n.toNat - 1 ≤ 0xFFF) →
    let row (r : Nat) : Fin 32 := ⟨((s.reg y).toNat % 32 + r) % 32, Nat.mod_lt _ (by decide)⟩
    let col (c : Nat) : Fin 64 := ⟨((s.reg x).toNat % 64 + c) % 64, Nat.mod_lt _ (by decide)⟩
    ∃ t u, exec (.drw x y n) s = .next t ∧ exec (.drw x y n) t = .next u ∧ (∀ p q, pixel u.fb p q = pixel s.fb p q) ∧
      (u.reg 0xF = 0x01 ↔ ∃ r c, r < n.toNat ∧ c < 8 ∧ (s.mem.read (s.i.toNat + r)).getLsbD (7 - c) = true ∧
        pixel s.fb (row r) (col c) = false)

/-- R143 (c), second half, word for word: "VF is set to 1 on the second draw" of a sprite that has at least one 1 bit. It does NOT
follow from R142 (notes/assumptions/13.md): where every such bit meets a set pixel, the first draw erases them all and the second
finds none set. -/
def Obligations.SecondDrawAlwaysCollides : Prop :=
  ∀ (x y : RegIdx) (n : Count) (s t u : State), x ≠ 0xF → y ≠ 0xF → exec (.drw x y n) s = .next t → exec (.drw x y n) t = .next u →
    u.mode = .running → (∃ r c, r < n.toNat ∧ c < 8 ∧ (s.mem.read (s.i.toNat + r)).getLsbD (7 - c) = true) → u.reg 0xF = 0x01

/-- R187: an instruction whose data range leaves memory halts the core with the lowest out-of-range address, with none of its
effects: `Dxyn` with n at least 1, `Fx33`, `Fx55`, `Fx65`. -/
def Obligations.DataRangeOutsideMemoryHalts : Prop :=
  ∀ (s : State) (i : Instr) (c : Nat),
    ((∃ x y n, i = .drw x y n ∧ c = n.toNat ∧ 1 ≤ c) ∨ (∃ x, i = .ldB x ∧ c = 3) ∨ (∃ x, i = .ldMemVx x ∧ c = x.toNat + 1) ∨
      (∃ x, i = .ldVxMem x ∧ c = x.toNat + 1)) →
    s.i.toNat + c - 1 > 0xFFF →
    ∃ (t : State) (a : Word), exec i s = .next t ∧ a.toNat = max s.i.toNat 0x1000 ∧ Faulted s t .dataAddressOutOfBounds a

/-! ### Keypad (45_keypad.md) -/

/-- R151, R154 (R150, R192): the two key skips on each legal index, and the fault on every other. -/
def Obligations.KeySkips : Prop :=
  ∀ (x : RegIdx) (s : State),
    decode (0xE#4 ++ x ++ 0x9E#8) = some (.skp x) ∧ decode (0xE#4 ++ x ++ 0xA1#8) = some (.sknp x) ∧
    ((s.reg x).toNat ≤ 15 →
      (∃ t, exec (.skp x) s = .next t ∧ t.pc = (if s.keys.getLsbD (s.reg x).toNat then s.pc + 4 else s.pc + 2) ∧
        FrameBut [.pc] s t) ∧
      (∃ t, exec (.sknp x) s = .next t ∧ t.pc = (if s.keys.getLsbD (s.reg x).toNat then s.pc + 2 else s.pc + 4) ∧
        FrameBut [.pc] s t)) ∧
    (15 < (s.reg x).toNat → ∀ i : Instr, i = .skp x ∨ i = .sknp x →
      ∃ (t : State) (info : Word), exec i s = .next t ∧ info.toNat = (s.reg x).toNat ∧ Faulted s t .keyIndexOutOfRange info)

/-- R152 (R155): `Fx0A` resolves at once on the lowest key that is down, and waits when none is. -/
def Obligations.AwaitKeyResolvesOrWaits : Prop :=
  ∀ (x : RegIdx) (s : State), decode (0xF#4 ++ x ++ 0x0A#8) = some (.ldVxK x) ∧
    ∃ t, exec (.ldVxK x) s = .next t ∧
      (s.keys = 0 → t.mode = .awaitingKey ∧ t.waitx = x ∧ FrameBut [.mode, .waitx] s t) ∧
      (∀ k : BitVec 4, s.keys.getLsbD k.toNat = true → (∀ j, j < k.toNat → s.keys.getLsbD j = false) →
        (∀ r, (t.reg r).toNat = if r = x then k.toNat else (s.reg r).toNat) ∧ t.pc = s.pc + 2 ∧ FrameBut [.v, .pc] s t)

/-! ### Timers (46_timers.md) -/

/-- R161, R162, R163: the instruction's own effect, before the end of its tick (R160). -/
def Obligations.TimerReadsAndWrites : Prop :=
  ∀ (x : RegIdx) (s : State),
    decode (0xF#4 ++ x ++ 0x07#8) = some (.ldVxDt x) ∧ decode (0xF#4 ++ x ++ 0x15#8) = some (.ldDtVx x) ∧
    decode (0xF#4 ++ x ++ 0x18#8) = some (.ldStVx x) ∧
    (∃ t, exec (.ldVxDt x) s = .next t ∧ (∀ r, t.reg r = if r = x then s.dt else s.reg r) ∧ t.pc = s.pc + 2 ∧
      FrameBut [.v, .pc] s t) ∧
    (∃ t, exec (.ldDtVx x) s = .next t ∧ t.dt = s.reg x ∧ t.pc = s.pc + 2 ∧ FrameBut [.dt, .pc] s t) ∧
    (∃ t, exec (.ldStVx x) s = .next t ∧ t.st = s.reg x ∧ t.pc = s.pc + 2 ∧ FrameBut [.st, .pc] s t)

/-- R218, an inference the spec marks as its own: a timer written in a tick is one less at the end of that tick (0 stays 0), and the tick changes no other register, no memory
and not the other timer's own count. -/
def Obligations.WrittenTimerIsDecrementedInItsTick : Prop :=
  ∀ (x : RegIdx) (s : State), s.mode = .running →
    (s.nextInstr = some (.ldDtVx x) → ∃ t, step s = .next t ∧ t.dt.toNat = (s.reg x).toNat - 1 ∧ t.st.toNat = s.st.toNat - 1 ∧
      t.pc = s.pc + 2 ∧ FrameBut [.dt, .st, .pc, .inputs] s t) ∧
    (s.nextInstr = some (.ldStVx x) → ∃ t, step s = .next t ∧ t.st.toNat = (s.reg x).toNat - 1 ∧ t.dt.toNat = s.dt.toNat - 1 ∧
      t.pc = s.pc + 2 ∧ FrameBut [.dt, .st, .pc, .inputs] s t)

/-! ### Memory transfer (47_memory_transfer.md) -/

/-- R171 (R174: I stays): hundreds, tens and ones of Vx at I, I + 1 and I + 2, every other byte as it was; the fault outside memory. -/
def Obligations.BcdSplitStoresThreeDigits : Prop :=
  ∀ (x : RegIdx) (s : State), decode (0xF#4 ++ x ++ 0x33#8) = some (.ldB x) ∧
    (0xFFF < s.i.toNat + 2 → ∃ (t : State) (a : Word), exec (.ldB x) s = .next t ∧
      a.toNat = max s.i.toNat 0x1000 ∧ Faulted s t .dataAddressOutOfBounds a) ∧
    (s.i.toNat + 2 ≤ 0xFFF → ∃ t, exec (.ldB x) s = .next t ∧
      (t.mem.read s.i.toNat).toNat = (s.reg x).toNat / 100 ∧
      (t.mem.read (s.i.toNat + 1)).toNat = (s.reg x).toNat / 10 % 10 ∧
      (t.mem.read (s.i.toNat + 2)).toNat = (s.reg x).toNat % 10 ∧
      (∀ a, ¬ (s.i.toNat ≤ a ∧ a ≤ s.i.toNat + 2) → t.mem.read a = s.mem.read a) ∧
      t.pc = s.pc + 2 ∧ FrameBut [.mem, .pc] s t)

/-- R172 (R174: I stays): V[k] at I + k for k = 0 to x, every other byte as it was; the fault outside memory. -/
def Obligations.StoreRegistersWritesTheRange : Prop :=
  ∀ (x : RegIdx) (s : State), decode (0xF#4 ++ x ++ 0x55#8) = some (.ldMemVx x) ∧
    (0xFFF < s.i.toNat + x.toNat → ∃ (t : State) (a : Word), exec (.ldMemVx x) s = .next t ∧
      a.toNat = max s.i.toNat 0x1000 ∧ Faulted s t .dataAddressOutOfBounds a) ∧
    (s.i.toNat + x.toNat ≤ 0xFFF → ∃ t, exec (.ldMemVx x) s = .next t ∧
      (∀ k : RegIdx, k.toNat ≤ x.toNat → t.mem.read (s.i.toNat + k.toNat) = s.reg k) ∧
      (∀ a, ¬ (s.i.toNat ≤ a ∧ a ≤ s.i.toNat + x.toNat) → t.mem.read a = s.mem.read a) ∧
      t.pc = s.pc + 2 ∧ FrameBut [.mem, .pc] s t)

/-- R173 (R174: I stays): V[k] from I + k for k = 0 to x, every higher register as it was; the fault outside memory. -/
def Obligations.LoadRegistersReadsTheRange : Prop :=
  ∀ (x : RegIdx) (s : State), decode (0xF#4 ++ x ++ 0x65#8) = some (.ldVxMem x) ∧
    (0xFFF < s.i.toNat + x.toNat → ∃ (t : State) (a : Word), exec (.ldVxMem x) s = .next t ∧
      a.toNat = max s.i.toNat 0x1000 ∧ Faulted s t .dataAddressOutOfBounds a) ∧
    (s.i.toNat + x.toNat ≤ 0xFFF → ∃ t, exec (.ldVxMem x) s = .next t ∧
      (∀ r : RegIdx, t.reg r = if r.toNat ≤ x.toNat then s.mem.read (s.i.toNat + r.toNat) else s.reg r) ∧
      t.pc = s.pc + 2 ∧ FrameBut [.v, .pc] s t)

/-- R64: bytes stored by `Fx55` and by `Fx33` are what the very next fetch sees, where it fetches from them: in the high byte of the word
what was stored at PC, in the low byte what was stored at PC + 1. Later ticks: `OnlyStoresChangeMemory`. -/
def Obligations.StoredBytesAreFetchedNext : Prop :=
  ∀ (x : RegIdx) (s t : State), s.mode = .running → step s = .next t → t.pc.toNat ≤ 0xFFE → ∃ w, t.fetch = some w ∧
    (s.nextInstr = some (.ldMemVx x) → s.i.toNat + x.toNat ≤ 0xFFF → ∀ k : RegIdx, k.toNat ≤ x.toNat →
      (t.pc.toNat = s.i.toNat + k.toNat → w.extractLsb' 8 8 = s.reg k) ∧
      (t.pc.toNat + 1 = s.i.toNat + k.toNat → w.extractLsb' 0 8 = s.reg k)) ∧
    (s.nextInstr = some (.ldB x) → s.i.toNat + 2 ≤ 0xFFF →
      (t.pc.toNat = s.i.toNat → (w.extractLsb' 8 8).toNat = (s.reg x).toNat / 100) ∧
      (t.pc.toNat = s.i.toNat + 1 → (w.extractLsb' 8 8).toNat = (s.reg x).toNat / 10 % 10) ∧
      (t.pc.toNat = s.i.toNat + 2 → (w.extractLsb' 8 8).toNat = (s.reg x).toNat % 10) ∧
      (t.pc.toNat + 1 = s.i.toNat → (w.extractLsb' 0 8).toNat = (s.reg x).toNat / 100) ∧
      (t.pc.toNat + 1 = s.i.toNat + 1 → (w.extractLsb' 0 8).toNat = (s.reg x).toNat / 10 % 10) ∧
      (t.pc.toNat + 1 = s.i.toNat + 2 → (w.extractLsb' 0 8).toNat = (s.reg x).toNat % 10))
end

