-- ==== Sys2Proof/Laws/Memory.lean ====
section
/-! SUPPORT. What each memory operation does: what a byte reads after it, and that it keeps the canonical form `Memory.wf`. -/

namespace Sys2Proof.Machine

/-! ### What a byte reads -/

@[simp] theorem Memory.read_nil (a : Nat) : Memory.read [] a = Memory.unlisted a := rfl

theorem Memory.read_cons (c : Host.Cell) (m : Memory) (a : Nat) :
    Memory.read (c :: m) a = if a = c.1 then c.2 else Memory.read m a := rfl

theorem Memory.read_erase (m : Memory) (a b : Nat) :
    (m.erase a).read b = if b = a then Memory.unlisted a else m.read b := by
  induction m with
  | nil => by_cases h : b = a <;> simp [Memory.erase, h]
  | cons c m ih =>
    unfold Memory.erase at ih ⊢
    by_cases hc : c.1 = a
    · by_cases hb : b = a <;> simp_all [Memory.read_cons]
    · by_cases hb : b = a
      · subst hb
        simp_all [Memory.read_cons, show ¬ b = c.1 from fun e => hc e.symm]
      · simp_all [Memory.read_cons]

theorem Memory.read_insert (m : Memory) (a b : Nat) (v : Byte) :
    (Memory.insert (m.erase a) a v).read b = if b = a then v else m.read b := by
  suffices H : ∀ m' : Memory, (∀ c ∈ m', c.1 ≠ a) →
      (Memory.insert m' a v).read b = if b = a then v else m'.read b by
    rw [H _ (fun c hc => by simpa using (List.mem_filter.mp hc).2), Memory.read_erase]
    split <;> rfl
  intro m'
  induction m' with
  | nil => intro _; simp [Memory.insert, Memory.read_cons]
  | cons c m' ih =>
    intro hm
    have hc : c.1 ≠ a := hm c (by simp)
    have ih := ih fun d hd => hm d (by simp [hd])
    unfold Memory.insert
    split
    · by_cases hb : b = a <;> simp [Memory.read_cons, hb]
    · by_cases hb : b = c.1
      · have : b ≠ a := hb ▸ hc
        simp [Memory.read_cons, hb, hc]
      · simp [Memory.read_cons, hb, ih]

/-- A byte reads what was last written to it, and no other byte changes (R57, R62). -/
theorem Memory.read_write (m : Memory) (a b : Nat) (v : Byte) :
    (m.write a v).read b = if b = a then v else m.read b := by
  unfold Memory.write
  split
  · rename_i h
    rw [Memory.read_erase, h]
  · exact Memory.read_insert m a b v

/-- A run of bytes loaded from `base` up: each address of the run reads its byte, every other reads as before. -/
theorem Memory.read_load (m : Memory) (base a : Nat) (bs : List Byte) :
    (m.load base bs).read a =
      if h : base ≤ a ∧ a - base < bs.length then bs[a - base]'h.2 else m.read a := by
  induction bs generalizing m base with
  | nil => simp [Memory.load]
  | cons b bs ih =>
    rw [Memory.load, ih, Memory.read_write]
    by_cases h1 : a = base
    · subst h1
      simp
    · by_cases h2 : base + 1 ≤ a ∧ a - (base + 1) < bs.length
      · have h3 : base ≤ a ∧ a - base < (b :: bs).length := by simp only [List.length_cons]; omega
        have h4 : a - base = (a - (base + 1)) + 1 := by omega
        simp [h2, h3, h4]
      · have h3 : ¬ (base ≤ a ∧ a - base < (b :: bs).length) := by simp only [List.length_cons]; omega
        rw [dif_neg h2, dif_neg h3, if_neg h1]

/-! ### The canonical form -/

/-- The canonical form of one more entry. -/
theorem Memory.wfFrom_cons {lo : Nat} {c : Host.Cell} {m : Memory} :
    Memory.wfFrom lo (c :: m) = true ↔
      lo ≤ c.1 ∧ c.1 < Config.memSize ∧ c.2 ≠ Memory.unlisted c.1 ∧ Memory.wfFrom (c.1 + 1) m = true := by
  simp [Memory.wfFrom, and_assoc]

theorem Memory.wfFrom_mono {lo lo' : Nat} {m : Memory} (hlo : lo' ≤ lo) (h : Memory.wfFrom lo m = true) :
    Memory.wfFrom lo' m = true := by
  cases m with
  | nil => rfl
  | cons c m =>
    rw [Memory.wfFrom_cons] at h ⊢
    exact ⟨by omega, h.2⟩

theorem Memory.wfFrom_erase {lo : Nat} {m : Memory} (a : Nat) (h : Memory.wfFrom lo m = true) :
    Memory.wfFrom lo (m.erase a) = true := by
  induction m generalizing lo with
  | nil => rfl
  | cons c m ih =>
    rw [Memory.wfFrom_cons] at h
    have ih := ih h.2.2.2
    unfold Memory.erase at ih ⊢
    by_cases hc : c.1 = a
    · simp only [hc, bne_self_eq_false, Bool.false_eq_true, not_false_eq_true, List.filter_cons_of_neg]
      exact Memory.wfFrom_mono (by omega) (hc ▸ ih)
    · rw [List.filter_cons_of_pos (by simpa using hc), Memory.wfFrom_cons]
      exact ⟨h.1, h.2.1, h.2.2.1, ih⟩

theorem Memory.wfFrom_insert {lo : Nat} {m : Memory} {a : Nat} {b : Byte} (hlo : lo ≤ a) (ha : a < Config.memSize)
    (hb : b ≠ Memory.unlisted a) (hm : ∀ c ∈ m, c.1 ≠ a) (h : Memory.wfFrom lo m = true) :
    Memory.wfFrom lo (Memory.insert m a b) = true := by
  induction m generalizing lo with
  | nil => exact Memory.wfFrom_cons.mpr ⟨hlo, ha, hb, rfl⟩
  | cons c m ih =>
    have hc := hm c (by simp)
    rw [Memory.wfFrom_cons] at h
    unfold Memory.insert
    split
    · rename_i hlt
      rw [Memory.wfFrom_cons]
      exact ⟨hlo, ha, hb, Memory.wfFrom_cons.mpr ⟨hlt, h.2⟩⟩
    · rw [Memory.wfFrom_cons]
      exact ⟨h.1, h.2.1, h.2.2.1, ih (by omega) (fun d hd => hm d (by simp [hd])) h.2.2.2⟩

/-- Writing a byte inside memory keeps the canonical form. -/
theorem Memory.wf_write {m : Memory} (a : Nat) (b : Byte) (ha : a < Config.memSize) (h : m.wf = true) :
    (m.write a b).wf = true := by
  unfold Memory.write Memory.wf at *
  split
  · exact Memory.wfFrom_erase a h
  · rename_i hb
    exact Memory.wfFrom_insert (Nat.zero_le a) ha hb (fun c hc => by simpa using (List.mem_filter.mp hc).2)
      (Memory.wfFrom_erase a h)

/-- Loading bytes inside memory keeps the canonical form. -/
theorem Memory.wf_load {m : Memory} (base : Nat) (bs : List Byte) (hb : base + bs.length ≤ Config.memSize) (h : m.wf = true) :
    (m.load base bs).wf = true := by
  induction bs generalizing m base with
  | nil => exact h
  | cons b bs ih =>
    rw [List.length_cons] at hb
    exact ih (base + 1) (by omega) (Memory.wf_write base b (by omega) h)

/-- The memory after reset is in canonical form. -/
theorem Memory.wf_reset : State.reset.mem.wf = true := rfl

/-- Below its first address a canonical memory lists nothing. -/
theorem Memory.read_of_wfFrom {lo : Nat} {m : Memory} (h : Memory.wfFrom lo m = true) {a : Nat} (ha : a < lo) :
    m.read a = Memory.unlisted a := by
  induction m generalizing lo with
  | nil => rfl
  | cons c m ih =>
    rw [Memory.wfFrom_cons] at h
    rw [Memory.read_cons, if_neg (by omega), ih h.2.2.2 (by omega)]

/-- Two memories in canonical form are equal when every address reads the same. -/
theorem Memory.ext_of_wfFrom {lo lo' : Nat} {m m' : Memory} (h : Memory.wfFrom lo m = true) (h' : Memory.wfFrom lo' m' = true)
    (e : ∀ a, m.read a = m'.read a) : m = m' := by
  induction m generalizing lo lo' m' with
  | nil =>
    cases m' with
    | nil => rfl
    | cons d m' =>
      rw [Memory.wfFrom_cons] at h'
      have := e d.1
      rw [Memory.read_cons, if_pos rfl] at this
      exact absurd this.symm h'.2.2.1
  | cons c m ih =>
    rw [Memory.wfFrom_cons] at h
    cases m' with
    | nil =>
      have := e c.1
      rw [Memory.read_cons, if_pos rfl] at this
      exact absurd this h.2.2.1
    | cons d m' =>
      rw [Memory.wfFrom_cons] at h'
      have key : c.1 = d.1 := by
        rcases Nat.lt_trichotomy c.1 d.1 with hlt | heq | hgt
        · have := e c.1
          rw [Memory.read_cons, if_pos rfl, Memory.read_cons, if_neg (by omega),
            Memory.read_of_wfFrom h'.2.2.2 (by omega)] at this
          exact absurd this h.2.2.1
        · exact heq
        · have := e d.1
          rw [Memory.read_cons d, if_pos rfl, Memory.read_cons, if_neg (by omega),
            Memory.read_of_wfFrom h.2.2.2 (by omega)] at this
          exact absurd this.symm h'.2.2.1
      have hv : c.2 = d.2 := by
        have := e c.1
        rwa [Memory.read_cons, if_pos rfl, Memory.read_cons, if_pos key] at this
      have hm : m = m' := ih h.2.2.2 h'.2.2.2 fun a => by
        by_cases ha : a = c.1
        · rw [Memory.read_of_wfFrom h.2.2.2 (by omega), Memory.read_of_wfFrom h'.2.2.2 (by omega)]
        · have := e a
          rwa [Memory.read_cons, if_neg ha, Memory.read_cons, if_neg (by omega)] at this
      rw [hm, Prod.ext key hv]

theorem Memory.ext_of_wf {m m' : Memory} (h : m.wf = true) (h' : m'.wf = true) (e : ∀ a, m.read a = m'.read a) : m = m' :=
  Memory.ext_of_wfFrom h h' e

end Sys2Proof.Machine
end

