-- ==== Sys2Proof/Laws/Boot.lean ====
section
/-! SUPPORT. What every byte of memory reads as at the start of a run (20_memory.md R58, 70_reset_and_hazards.md R210). -/

namespace Sys2Proof.Machine

variable (font : Vector Byte 80) (prog : List Byte)

/-- The memory of a start is the reset contents with the font and then the program stored in it; every other field is reset's. -/
theorem State.resetWith_eq :
    State.resetWith font prog =
      { State.reset with mem := (Memory.load [] 0 font.toList).load Config.progBase prog } := rfl

/-- A program byte at the start of a run (R58). -/
theorem State.read_resetWith_prog (k : Nat) (h : k < prog.length) :
    (State.resetWith font prog).mem.read (Config.progBase + k) = prog[k] := by
  rw [State.resetWith_eq, Memory.read_load, dif_pos ⟨by omega, by omega⟩]
  simp

/-- A byte outside the program at the start of a run: the font at 0x000 to 0x04F, zero elsewhere (R58). -/
theorem State.read_resetWith_other (a : Nat) (h : ¬ (Config.progBase ≤ a ∧ a < Config.progBase + prog.length)) :
    (State.resetWith font prog).mem.read a = if h : a < 80 then font[a] else 0x00 := by
  rw [State.resetWith_eq, Memory.read_load, dif_neg (by omega), Memory.read_load, Memory.read_nil]
  by_cases h2 : a < 80
  · rw [dif_pos ⟨Nat.zero_le a, by simpa using h2⟩, dif_pos h2]
    simp
  · rw [dif_neg (fun h => h2 (by simpa using h.2)), dif_neg h2, Memory.unlisted, dif_neg h2]

/-- The loader accepts 1 to 3584 bytes (R213). -/
theorem progOk_iff : progOk prog = true ↔ 1 ≤ prog.length ∧ prog.length ≤ 3584 := by
  rw [progOk, Bool.and_eq_true, decide_eq_true_eq, decide_eq_true_eq]
  exact Iff.rfl

end Sys2Proof.Machine
end

