-- ==== Sys2Proof/Laws/State.lean ====
section
/-! SUPPORT. One lemma per field per update of the state, each true by rfl, so that no proof unfolds a record update; then what a
register reads after each update. -/

namespace Sys2Proof.Machine

variable (s : State)

@[simp] theorem State.setReg_i (x : RegIdx) (b : Byte) : (s.setReg x b).i = s.i := rfl
@[simp] theorem State.setReg_pc (x : RegIdx) (b : Byte) : (s.setReg x b).pc = s.pc := rfl
@[simp] theorem State.setReg_sp (x : RegIdx) (b : Byte) : (s.setReg x b).sp = s.sp := rfl
@[simp] theorem State.setReg_stk (x : RegIdx) (b : Byte) : (s.setReg x b).stk = s.stk := rfl
@[simp] theorem State.setReg_dt (x : RegIdx) (b : Byte) : (s.setReg x b).dt = s.dt := rfl
@[simp] theorem State.setReg_st (x : RegIdx) (b : Byte) : (s.setReg x b).st = s.st := rfl
@[simp] theorem State.setReg_fb (x : RegIdx) (b : Byte) : (s.setReg x b).fb = s.fb := rfl
@[simp] theorem State.setReg_mem (x : RegIdx) (b : Byte) : (s.setReg x b).mem = s.mem := rfl
@[simp] theorem State.setReg_mode (x : RegIdx) (b : Byte) : (s.setReg x b).mode = s.mode := rfl
@[simp] theorem State.setReg_waitx (x : RegIdx) (b : Byte) : (s.setReg x b).waitx = s.waitx := rfl
@[simp] theorem State.setReg_err (x : RegIdx) (b : Byte) : (s.setReg x b).err = s.err := rfl
@[simp] theorem State.setReg_errinfo (x : RegIdx) (b : Byte) : (s.setReg x b).errinfo = s.errinfo := rfl
@[simp] theorem State.setReg_inputs (x : RegIdx) (b : Byte) : (s.setReg x b).inputs = s.inputs := rfl
@[simp] theorem State.setReg_tickNo (x : RegIdx) (b : Byte) : (s.setReg x b).tickNo = s.tickNo := rfl

@[simp] theorem State.setPc_v (a : Word) : (s.setPc a).v = s.v := rfl
@[simp] theorem State.setPc_i (a : Word) : (s.setPc a).i = s.i := rfl
@[simp] theorem State.setPc_pc (a : Word) : (s.setPc a).pc = a := rfl
@[simp] theorem State.setPc_sp (a : Word) : (s.setPc a).sp = s.sp := rfl
@[simp] theorem State.setPc_stk (a : Word) : (s.setPc a).stk = s.stk := rfl
@[simp] theorem State.setPc_dt (a : Word) : (s.setPc a).dt = s.dt := rfl
@[simp] theorem State.setPc_st (a : Word) : (s.setPc a).st = s.st := rfl
@[simp] theorem State.setPc_fb (a : Word) : (s.setPc a).fb = s.fb := rfl
@[simp] theorem State.setPc_mem (a : Word) : (s.setPc a).mem = s.mem := rfl
@[simp] theorem State.setPc_mode (a : Word) : (s.setPc a).mode = s.mode := rfl
@[simp] theorem State.setPc_waitx (a : Word) : (s.setPc a).waitx = s.waitx := rfl
@[simp] theorem State.setPc_err (a : Word) : (s.setPc a).err = s.err := rfl
@[simp] theorem State.setPc_errinfo (a : Word) : (s.setPc a).errinfo = s.errinfo := rfl
@[simp] theorem State.setPc_inputs (a : Word) : (s.setPc a).inputs = s.inputs := rfl
@[simp] theorem State.setPc_tickNo (a : Word) : (s.setPc a).tickNo = s.tickNo := rfl

@[simp] theorem State.setI_v (a : Word) : (s.setI a).v = s.v := rfl
@[simp] theorem State.setI_i (a : Word) : (s.setI a).i = a := rfl
@[simp] theorem State.setI_pc (a : Word) : (s.setI a).pc = s.pc := rfl
@[simp] theorem State.setI_sp (a : Word) : (s.setI a).sp = s.sp := rfl
@[simp] theorem State.setI_stk (a : Word) : (s.setI a).stk = s.stk := rfl
@[simp] theorem State.setI_dt (a : Word) : (s.setI a).dt = s.dt := rfl
@[simp] theorem State.setI_st (a : Word) : (s.setI a).st = s.st := rfl
@[simp] theorem State.setI_fb (a : Word) : (s.setI a).fb = s.fb := rfl
@[simp] theorem State.setI_mem (a : Word) : (s.setI a).mem = s.mem := rfl
@[simp] theorem State.setI_mode (a : Word) : (s.setI a).mode = s.mode := rfl
@[simp] theorem State.setI_waitx (a : Word) : (s.setI a).waitx = s.waitx := rfl
@[simp] theorem State.setI_err (a : Word) : (s.setI a).err = s.err := rfl
@[simp] theorem State.setI_errinfo (a : Word) : (s.setI a).errinfo = s.errinfo := rfl
@[simp] theorem State.setI_inputs (a : Word) : (s.setI a).inputs = s.inputs := rfl
@[simp] theorem State.setI_tickNo (a : Word) : (s.setI a).tickNo = s.tickNo := rfl

@[simp] theorem State.setDt_v (b : Byte) : (s.setDt b).v = s.v := rfl
@[simp] theorem State.setDt_i (b : Byte) : (s.setDt b).i = s.i := rfl
@[simp] theorem State.setDt_pc (b : Byte) : (s.setDt b).pc = s.pc := rfl
@[simp] theorem State.setDt_sp (b : Byte) : (s.setDt b).sp = s.sp := rfl
@[simp] theorem State.setDt_stk (b : Byte) : (s.setDt b).stk = s.stk := rfl
@[simp] theorem State.setDt_dt (b : Byte) : (s.setDt b).dt = b := rfl
@[simp] theorem State.setDt_st (b : Byte) : (s.setDt b).st = s.st := rfl
@[simp] theorem State.setDt_fb (b : Byte) : (s.setDt b).fb = s.fb := rfl
@[simp] theorem State.setDt_mem (b : Byte) : (s.setDt b).mem = s.mem := rfl
@[simp] theorem State.setDt_mode (b : Byte) : (s.setDt b).mode = s.mode := rfl
@[simp] theorem State.setDt_waitx (b : Byte) : (s.setDt b).waitx = s.waitx := rfl
@[simp] theorem State.setDt_err (b : Byte) : (s.setDt b).err = s.err := rfl
@[simp] theorem State.setDt_errinfo (b : Byte) : (s.setDt b).errinfo = s.errinfo := rfl
@[simp] theorem State.setDt_inputs (b : Byte) : (s.setDt b).inputs = s.inputs := rfl
@[simp] theorem State.setDt_tickNo (b : Byte) : (s.setDt b).tickNo = s.tickNo := rfl

@[simp] theorem State.setSt_v (b : Byte) : (s.setSt b).v = s.v := rfl
@[simp] theorem State.setSt_i (b : Byte) : (s.setSt b).i = s.i := rfl
@[simp] theorem State.setSt_pc (b : Byte) : (s.setSt b).pc = s.pc := rfl
@[simp] theorem State.setSt_sp (b : Byte) : (s.setSt b).sp = s.sp := rfl
@[simp] theorem State.setSt_stk (b : Byte) : (s.setSt b).stk = s.stk := rfl
@[simp] theorem State.setSt_dt (b : Byte) : (s.setSt b).dt = s.dt := rfl
@[simp] theorem State.setSt_st (b : Byte) : (s.setSt b).st = b := rfl
@[simp] theorem State.setSt_fb (b : Byte) : (s.setSt b).fb = s.fb := rfl
@[simp] theorem State.setSt_mem (b : Byte) : (s.setSt b).mem = s.mem := rfl
@[simp] theorem State.setSt_mode (b : Byte) : (s.setSt b).mode = s.mode := rfl
@[simp] theorem State.setSt_waitx (b : Byte) : (s.setSt b).waitx = s.waitx := rfl
@[simp] theorem State.setSt_err (b : Byte) : (s.setSt b).err = s.err := rfl
@[simp] theorem State.setSt_errinfo (b : Byte) : (s.setSt b).errinfo = s.errinfo := rfl
@[simp] theorem State.setSt_inputs (b : Byte) : (s.setSt b).inputs = s.inputs := rfl
@[simp] theorem State.setSt_tickNo (b : Byte) : (s.setSt b).tickNo = s.tickNo := rfl

@[simp] theorem State.setFb_v (f : Vector (BitVec 64) 32) : (s.setFb f).v = s.v := rfl
@[simp] theorem State.setFb_i (f : Vector (BitVec 64) 32) : (s.setFb f).i = s.i := rfl
@[simp] theorem State.setFb_pc (f : Vector (BitVec 64) 32) : (s.setFb f).pc = s.pc := rfl
@[simp] theorem State.setFb_sp (f : Vector (BitVec 64) 32) : (s.setFb f).sp = s.sp := rfl
@[simp] theorem State.setFb_stk (f : Vector (BitVec 64) 32) : (s.setFb f).stk = s.stk := rfl
@[simp] theorem State.setFb_dt (f : Vector (BitVec 64) 32) : (s.setFb f).dt = s.dt := rfl
@[simp] theorem State.setFb_st (f : Vector (BitVec 64) 32) : (s.setFb f).st = s.st := rfl
@[simp] theorem State.setFb_fb (f : Vector (BitVec 64) 32) : (s.setFb f).fb = f := rfl
@[simp] theorem State.setFb_mem (f : Vector (BitVec 64) 32) : (s.setFb f).mem = s.mem := rfl
@[simp] theorem State.setFb_mode (f : Vector (BitVec 64) 32) : (s.setFb f).mode = s.mode := rfl
@[simp] theorem State.setFb_waitx (f : Vector (BitVec 64) 32) : (s.setFb f).waitx = s.waitx := rfl
@[simp] theorem State.setFb_err (f : Vector (BitVec 64) 32) : (s.setFb f).err = s.err := rfl
@[simp] theorem State.setFb_errinfo (f : Vector (BitVec 64) 32) : (s.setFb f).errinfo = s.errinfo := rfl
@[simp] theorem State.setFb_inputs (f : Vector (BitVec 64) 32) : (s.setFb f).inputs = s.inputs := rfl
@[simp] theorem State.setFb_tickNo (f : Vector (BitVec 64) 32) : (s.setFb f).tickNo = s.tickNo := rfl

@[simp] theorem State.setMem_v (m : Memory) : (s.setMem m).v = s.v := rfl
@[simp] theorem State.setMem_i (m : Memory) : (s.setMem m).i = s.i := rfl
@[simp] theorem State.setMem_pc (m : Memory) : (s.setMem m).pc = s.pc := rfl
@[simp] theorem State.setMem_sp (m : Memory) : (s.setMem m).sp = s.sp := rfl
@[simp] theorem State.setMem_stk (m : Memory) : (s.setMem m).stk = s.stk := rfl
@[simp] theorem State.setMem_dt (m : Memory) : (s.setMem m).dt = s.dt := rfl
@[simp] theorem State.setMem_st (m : Memory) : (s.setMem m).st = s.st := rfl
@[simp] theorem State.setMem_fb (m : Memory) : (s.setMem m).fb = s.fb := rfl
@[simp] theorem State.setMem_mem (m : Memory) : (s.setMem m).mem = m := rfl
@[simp] theorem State.setMem_mode (m : Memory) : (s.setMem m).mode = s.mode := rfl
@[simp] theorem State.setMem_waitx (m : Memory) : (s.setMem m).waitx = s.waitx := rfl
@[simp] theorem State.setMem_err (m : Memory) : (s.setMem m).err = s.err := rfl
@[simp] theorem State.setMem_errinfo (m : Memory) : (s.setMem m).errinfo = s.errinfo := rfl
@[simp] theorem State.setMem_inputs (m : Memory) : (s.setMem m).inputs = s.inputs := rfl
@[simp] theorem State.setMem_tickNo (m : Memory) : (s.setMem m).tickNo = s.tickNo := rfl

@[simp] theorem State.setMode_v (m : Mode) : (s.setMode m).v = s.v := rfl
@[simp] theorem State.setMode_i (m : Mode) : (s.setMode m).i = s.i := rfl
@[simp] theorem State.setMode_pc (m : Mode) : (s.setMode m).pc = s.pc := rfl
@[simp] theorem State.setMode_sp (m : Mode) : (s.setMode m).sp = s.sp := rfl
@[simp] theorem State.setMode_stk (m : Mode) : (s.setMode m).stk = s.stk := rfl
@[simp] theorem State.setMode_dt (m : Mode) : (s.setMode m).dt = s.dt := rfl
@[simp] theorem State.setMode_st (m : Mode) : (s.setMode m).st = s.st := rfl
@[simp] theorem State.setMode_fb (m : Mode) : (s.setMode m).fb = s.fb := rfl
@[simp] theorem State.setMode_mem (m : Mode) : (s.setMode m).mem = s.mem := rfl
@[simp] theorem State.setMode_mode (m : Mode) : (s.setMode m).mode = m := rfl
@[simp] theorem State.setMode_waitx (m : Mode) : (s.setMode m).waitx = s.waitx := rfl
@[simp] theorem State.setMode_err (m : Mode) : (s.setMode m).err = s.err := rfl
@[simp] theorem State.setMode_errinfo (m : Mode) : (s.setMode m).errinfo = s.errinfo := rfl
@[simp] theorem State.setMode_inputs (m : Mode) : (s.setMode m).inputs = s.inputs := rfl
@[simp] theorem State.setMode_tickNo (m : Mode) : (s.setMode m).tickNo = s.tickNo := rfl

@[simp] theorem State.setWaitx_v (x : RegIdx) : (s.setWaitx x).v = s.v := rfl
@[simp] theorem State.setWaitx_i (x : RegIdx) : (s.setWaitx x).i = s.i := rfl
@[simp] theorem State.setWaitx_pc (x : RegIdx) : (s.setWaitx x).pc = s.pc := rfl
@[simp] theorem State.setWaitx_sp (x : RegIdx) : (s.setWaitx x).sp = s.sp := rfl
@[simp] theorem State.setWaitx_stk (x : RegIdx) : (s.setWaitx x).stk = s.stk := rfl
@[simp] theorem State.setWaitx_dt (x : RegIdx) : (s.setWaitx x).dt = s.dt := rfl
@[simp] theorem State.setWaitx_st (x : RegIdx) : (s.setWaitx x).st = s.st := rfl
@[simp] theorem State.setWaitx_fb (x : RegIdx) : (s.setWaitx x).fb = s.fb := rfl
@[simp] theorem State.setWaitx_mem (x : RegIdx) : (s.setWaitx x).mem = s.mem := rfl
@[simp] theorem State.setWaitx_mode (x : RegIdx) : (s.setWaitx x).mode = s.mode := rfl
@[simp] theorem State.setWaitx_waitx (x : RegIdx) : (s.setWaitx x).waitx = x := rfl
@[simp] theorem State.setWaitx_err (x : RegIdx) : (s.setWaitx x).err = s.err := rfl
@[simp] theorem State.setWaitx_errinfo (x : RegIdx) : (s.setWaitx x).errinfo = s.errinfo := rfl
@[simp] theorem State.setWaitx_inputs (x : RegIdx) : (s.setWaitx x).inputs = s.inputs := rfl
@[simp] theorem State.setWaitx_tickNo (x : RegIdx) : (s.setWaitx x).tickNo = s.tickNo := rfl

@[simp] theorem State.setSp_v (n : BitVec 5) : (s.setSp n).v = s.v := rfl
@[simp] theorem State.setSp_i (n : BitVec 5) : (s.setSp n).i = s.i := rfl
@[simp] theorem State.setSp_pc (n : BitVec 5) : (s.setSp n).pc = s.pc := rfl
@[simp] theorem State.setSp_sp (n : BitVec 5) : (s.setSp n).sp = n := rfl
@[simp] theorem State.setSp_stk (n : BitVec 5) : (s.setSp n).stk = s.stk := rfl
@[simp] theorem State.setSp_dt (n : BitVec 5) : (s.setSp n).dt = s.dt := rfl
@[simp] theorem State.setSp_st (n : BitVec 5) : (s.setSp n).st = s.st := rfl
@[simp] theorem State.setSp_fb (n : BitVec 5) : (s.setSp n).fb = s.fb := rfl
@[simp] theorem State.setSp_mem (n : BitVec 5) : (s.setSp n).mem = s.mem := rfl
@[simp] theorem State.setSp_mode (n : BitVec 5) : (s.setSp n).mode = s.mode := rfl
@[simp] theorem State.setSp_waitx (n : BitVec 5) : (s.setSp n).waitx = s.waitx := rfl
@[simp] theorem State.setSp_err (n : BitVec 5) : (s.setSp n).err = s.err := rfl
@[simp] theorem State.setSp_errinfo (n : BitVec 5) : (s.setSp n).errinfo = s.errinfo := rfl
@[simp] theorem State.setSp_inputs (n : BitVec 5) : (s.setSp n).inputs = s.inputs := rfl
@[simp] theorem State.setSp_tickNo (n : BitVec 5) : (s.setSp n).tickNo = s.tickNo := rfl

@[simp] theorem State.advance_v : (s.advance).v = s.v := rfl
@[simp] theorem State.advance_i : (s.advance).i = s.i := rfl
@[simp] theorem State.advance_pc : (s.advance).pc = s.pc + 2 := rfl
@[simp] theorem State.advance_sp : (s.advance).sp = s.sp := rfl
@[simp] theorem State.advance_stk : (s.advance).stk = s.stk := rfl
@[simp] theorem State.advance_dt : (s.advance).dt = s.dt := rfl
@[simp] theorem State.advance_st : (s.advance).st = s.st := rfl
@[simp] theorem State.advance_fb : (s.advance).fb = s.fb := rfl
@[simp] theorem State.advance_mem : (s.advance).mem = s.mem := rfl
@[simp] theorem State.advance_mode : (s.advance).mode = s.mode := rfl
@[simp] theorem State.advance_waitx : (s.advance).waitx = s.waitx := rfl
@[simp] theorem State.advance_err : (s.advance).err = s.err := rfl
@[simp] theorem State.advance_errinfo : (s.advance).errinfo = s.errinfo := rfl
@[simp] theorem State.advance_inputs : (s.advance).inputs = s.inputs := rfl
@[simp] theorem State.advance_tickNo : (s.advance).tickNo = s.tickNo := rfl

@[simp] theorem State.skipIf_v (c : Bool) : (s.skipIf c).v = s.v := rfl
@[simp] theorem State.skipIf_i (c : Bool) : (s.skipIf c).i = s.i := rfl
@[simp] theorem State.skipIf_pc (c : Bool) : (s.skipIf c).pc = (if c then s.pc + 4 else s.pc + 2) := rfl
@[simp] theorem State.skipIf_sp (c : Bool) : (s.skipIf c).sp = s.sp := rfl
@[simp] theorem State.skipIf_stk (c : Bool) : (s.skipIf c).stk = s.stk := rfl
@[simp] theorem State.skipIf_dt (c : Bool) : (s.skipIf c).dt = s.dt := rfl
@[simp] theorem State.skipIf_st (c : Bool) : (s.skipIf c).st = s.st := rfl
@[simp] theorem State.skipIf_fb (c : Bool) : (s.skipIf c).fb = s.fb := rfl
@[simp] theorem State.skipIf_mem (c : Bool) : (s.skipIf c).mem = s.mem := rfl
@[simp] theorem State.skipIf_mode (c : Bool) : (s.skipIf c).mode = s.mode := rfl
@[simp] theorem State.skipIf_waitx (c : Bool) : (s.skipIf c).waitx = s.waitx := rfl
@[simp] theorem State.skipIf_err (c : Bool) : (s.skipIf c).err = s.err := rfl
@[simp] theorem State.skipIf_errinfo (c : Bool) : (s.skipIf c).errinfo = s.errinfo := rfl
@[simp] theorem State.skipIf_inputs (c : Bool) : (s.skipIf c).inputs = s.inputs := rfl
@[simp] theorem State.skipIf_tickNo (c : Bool) : (s.skipIf c).tickNo = s.tickNo := rfl

@[simp] theorem State.takeFault_v (c : ErrCode) (w : Word) : (s.takeFault c w).v = s.v := rfl
@[simp] theorem State.takeFault_i (c : ErrCode) (w : Word) : (s.takeFault c w).i = s.i := rfl
@[simp] theorem State.takeFault_pc (c : ErrCode) (w : Word) : (s.takeFault c w).pc = s.pc := rfl
@[simp] theorem State.takeFault_sp (c : ErrCode) (w : Word) : (s.takeFault c w).sp = s.sp := rfl
@[simp] theorem State.takeFault_stk (c : ErrCode) (w : Word) : (s.takeFault c w).stk = s.stk := rfl
@[simp] theorem State.takeFault_dt (c : ErrCode) (w : Word) : (s.takeFault c w).dt = s.dt := rfl
@[simp] theorem State.takeFault_st (c : ErrCode) (w : Word) : (s.takeFault c w).st = s.st := rfl
@[simp] theorem State.takeFault_fb (c : ErrCode) (w : Word) : (s.takeFault c w).fb = s.fb := rfl
@[simp] theorem State.takeFault_mem (c : ErrCode) (w : Word) : (s.takeFault c w).mem = s.mem := rfl
@[simp] theorem State.takeFault_mode (c : ErrCode) (w : Word) : (s.takeFault c w).mode = .halted := rfl
@[simp] theorem State.takeFault_waitx (c : ErrCode) (w : Word) : (s.takeFault c w).waitx = s.waitx := rfl
@[simp] theorem State.takeFault_err (c : ErrCode) (w : Word) : (s.takeFault c w).err = c := rfl
@[simp] theorem State.takeFault_errinfo (c : ErrCode) (w : Word) : (s.takeFault c w).errinfo = w := rfl
@[simp] theorem State.takeFault_inputs (c : ErrCode) (w : Word) : (s.takeFault c w).inputs = s.inputs := rfl
@[simp] theorem State.takeFault_tickNo (c : ErrCode) (w : Word) : (s.takeFault c w).tickNo = s.tickNo := rfl

@[simp] theorem State.dropInput_v : (s.dropInput).v = s.v := rfl
@[simp] theorem State.dropInput_i : (s.dropInput).i = s.i := rfl
@[simp] theorem State.dropInput_pc : (s.dropInput).pc = s.pc := rfl
@[simp] theorem State.dropInput_sp : (s.dropInput).sp = s.sp := rfl
@[simp] theorem State.dropInput_stk : (s.dropInput).stk = s.stk := rfl
@[simp] theorem State.dropInput_dt : (s.dropInput).dt = s.dt := rfl
@[simp] theorem State.dropInput_st : (s.dropInput).st = s.st := rfl
@[simp] theorem State.dropInput_fb : (s.dropInput).fb = s.fb := rfl
@[simp] theorem State.dropInput_mem : (s.dropInput).mem = s.mem := rfl
@[simp] theorem State.dropInput_mode : (s.dropInput).mode = s.mode := rfl
@[simp] theorem State.dropInput_waitx : (s.dropInput).waitx = s.waitx := rfl
@[simp] theorem State.dropInput_err : (s.dropInput).err = s.err := rfl
@[simp] theorem State.dropInput_errinfo : (s.dropInput).errinfo = s.errinfo := rfl
@[simp] theorem State.dropInput_inputs : (s.dropInput).inputs = s.inputs.tail := rfl
@[simp] theorem State.dropInput_tickNo : (s.dropInput).tickNo = s.tickNo + 1 := rfl

@[simp] theorem State.push_v (a : Word) (h : s.sp.toNat < 16) : (s.push a h).v = s.v := rfl
@[simp] theorem State.push_i (a : Word) (h : s.sp.toNat < 16) : (s.push a h).i = s.i := rfl
@[simp] theorem State.push_pc (a : Word) (h : s.sp.toNat < 16) : (s.push a h).pc = s.pc := rfl
@[simp] theorem State.push_sp (a : Word) (h : s.sp.toNat < 16) : (s.push a h).sp = s.sp + 1 := rfl
@[simp] theorem State.push_stk (a : Word) (h : s.sp.toNat < 16) : (s.push a h).stk = s.stk.set s.sp.toNat a := rfl
@[simp] theorem State.push_dt (a : Word) (h : s.sp.toNat < 16) : (s.push a h).dt = s.dt := rfl
@[simp] theorem State.push_st (a : Word) (h : s.sp.toNat < 16) : (s.push a h).st = s.st := rfl
@[simp] theorem State.push_fb (a : Word) (h : s.sp.toNat < 16) : (s.push a h).fb = s.fb := rfl
@[simp] theorem State.push_mem (a : Word) (h : s.sp.toNat < 16) : (s.push a h).mem = s.mem := rfl
@[simp] theorem State.push_mode (a : Word) (h : s.sp.toNat < 16) : (s.push a h).mode = s.mode := rfl
@[simp] theorem State.push_waitx (a : Word) (h : s.sp.toNat < 16) : (s.push a h).waitx = s.waitx := rfl
@[simp] theorem State.push_err (a : Word) (h : s.sp.toNat < 16) : (s.push a h).err = s.err := rfl
@[simp] theorem State.push_errinfo (a : Word) (h : s.sp.toNat < 16) : (s.push a h).errinfo = s.errinfo := rfl
@[simp] theorem State.push_inputs (a : Word) (h : s.sp.toNat < 16) : (s.push a h).inputs = s.inputs := rfl
@[simp] theorem State.push_tickNo (a : Word) (h : s.sp.toNat < 16) : (s.push a h).tickNo = s.tickNo := rfl

@[simp] theorem State.setResultAndFlag_i (x : RegIdx) (b : Byte) (c : Bool) : (s.setResultAndFlag x b c).i = s.i := rfl
@[simp] theorem State.setResultAndFlag_pc (x : RegIdx) (b : Byte) (c : Bool) : (s.setResultAndFlag x b c).pc = s.pc := rfl
@[simp] theorem State.setResultAndFlag_sp (x : RegIdx) (b : Byte) (c : Bool) : (s.setResultAndFlag x b c).sp = s.sp := rfl
@[simp] theorem State.setResultAndFlag_stk (x : RegIdx) (b : Byte) (c : Bool) : (s.setResultAndFlag x b c).stk = s.stk := rfl
@[simp] theorem State.setResultAndFlag_dt (x : RegIdx) (b : Byte) (c : Bool) : (s.setResultAndFlag x b c).dt = s.dt := rfl
@[simp] theorem State.setResultAndFlag_st (x : RegIdx) (b : Byte) (c : Bool) : (s.setResultAndFlag x b c).st = s.st := rfl
@[simp] theorem State.setResultAndFlag_fb (x : RegIdx) (b : Byte) (c : Bool) : (s.setResultAndFlag x b c).fb = s.fb := rfl
@[simp] theorem State.setResultAndFlag_mem (x : RegIdx) (b : Byte) (c : Bool) : (s.setResultAndFlag x b c).mem = s.mem := rfl
@[simp] theorem State.setResultAndFlag_mode (x : RegIdx) (b : Byte) (c : Bool) : (s.setResultAndFlag x b c).mode = s.mode := rfl
@[simp] theorem State.setResultAndFlag_waitx (x : RegIdx) (b : Byte) (c : Bool) : (s.setResultAndFlag x b c).waitx = s.waitx := rfl
@[simp] theorem State.setResultAndFlag_err (x : RegIdx) (b : Byte) (c : Bool) : (s.setResultAndFlag x b c).err = s.err := rfl
@[simp] theorem State.setResultAndFlag_errinfo (x : RegIdx) (b : Byte) (c : Bool) : (s.setResultAndFlag x b c).errinfo = s.errinfo := rfl
@[simp] theorem State.setResultAndFlag_inputs (x : RegIdx) (b : Byte) (c : Bool) : (s.setResultAndFlag x b c).inputs = s.inputs := rfl
@[simp] theorem State.setResultAndFlag_tickNo (x : RegIdx) (b : Byte) (c : Bool) : (s.setResultAndFlag x b c).tickNo = s.tickNo := rfl

@[simp] theorem State.countdown_v : (s.countdown).v = s.v := rfl
@[simp] theorem State.countdown_i : (s.countdown).i = s.i := rfl
@[simp] theorem State.countdown_pc : (s.countdown).pc = s.pc := rfl
@[simp] theorem State.countdown_sp : (s.countdown).sp = s.sp := rfl
@[simp] theorem State.countdown_stk : (s.countdown).stk = s.stk := rfl
@[simp] theorem State.countdown_dt : (s.countdown).dt = countDown s.dt := rfl
@[simp] theorem State.countdown_st : (s.countdown).st = countDown s.st := rfl
@[simp] theorem State.countdown_fb : (s.countdown).fb = s.fb := rfl
@[simp] theorem State.countdown_mem : (s.countdown).mem = s.mem := rfl
@[simp] theorem State.countdown_mode : (s.countdown).mode = s.mode := rfl
@[simp] theorem State.countdown_waitx : (s.countdown).waitx = s.waitx := rfl
@[simp] theorem State.countdown_err : (s.countdown).err = s.err := rfl
@[simp] theorem State.countdown_errinfo : (s.countdown).errinfo = s.errinfo := rfl
@[simp] theorem State.countdown_inputs : (s.countdown).inputs = s.inputs := rfl
@[simp] theorem State.countdown_tickNo : (s.countdown).tickNo = s.tickNo := rfl

@[simp] theorem State.resolveKey_i (x : RegIdx) (k : BitVec 4) : (s.resolveKey x k).i = s.i := rfl
@[simp] theorem State.resolveKey_pc (x : RegIdx) (k : BitVec 4) : (s.resolveKey x k).pc = s.pc + 2 := rfl
@[simp] theorem State.resolveKey_sp (x : RegIdx) (k : BitVec 4) : (s.resolveKey x k).sp = s.sp := rfl
@[simp] theorem State.resolveKey_stk (x : RegIdx) (k : BitVec 4) : (s.resolveKey x k).stk = s.stk := rfl
@[simp] theorem State.resolveKey_dt (x : RegIdx) (k : BitVec 4) : (s.resolveKey x k).dt = s.dt := rfl
@[simp] theorem State.resolveKey_st (x : RegIdx) (k : BitVec 4) : (s.resolveKey x k).st = s.st := rfl
@[simp] theorem State.resolveKey_fb (x : RegIdx) (k : BitVec 4) : (s.resolveKey x k).fb = s.fb := rfl
@[simp] theorem State.resolveKey_mem (x : RegIdx) (k : BitVec 4) : (s.resolveKey x k).mem = s.mem := rfl
@[simp] theorem State.resolveKey_mode (x : RegIdx) (k : BitVec 4) : (s.resolveKey x k).mode = s.mode := rfl
@[simp] theorem State.resolveKey_waitx (x : RegIdx) (k : BitVec 4) : (s.resolveKey x k).waitx = s.waitx := rfl
@[simp] theorem State.resolveKey_err (x : RegIdx) (k : BitVec 4) : (s.resolveKey x k).err = s.err := rfl
@[simp] theorem State.resolveKey_errinfo (x : RegIdx) (k : BitVec 4) : (s.resolveKey x k).errinfo = s.errinfo := rfl
@[simp] theorem State.resolveKey_inputs (x : RegIdx) (k : BitVec 4) : (s.resolveKey x k).inputs = s.inputs := rfl
@[simp] theorem State.resolveKey_tickNo (x : RegIdx) (k : BitVec 4) : (s.resolveKey x k).tickNo = s.tickNo := rfl

/-! ### What a register reads after an update -/

@[simp] theorem State.reg_setPc (a : Word) (r : RegIdx) : (s.setPc a).reg r = s.reg r := rfl
@[simp] theorem State.reg_setI (a : Word) (r : RegIdx) : (s.setI a).reg r = s.reg r := rfl
@[simp] theorem State.reg_setDt (b : Byte) (r : RegIdx) : (s.setDt b).reg r = s.reg r := rfl
@[simp] theorem State.reg_setSt (b : Byte) (r : RegIdx) : (s.setSt b).reg r = s.reg r := rfl
@[simp] theorem State.reg_setFb (f : Vector (BitVec 64) 32) (r : RegIdx) : (s.setFb f).reg r = s.reg r := rfl
@[simp] theorem State.reg_setMem (m : Memory) (r : RegIdx) : (s.setMem m).reg r = s.reg r := rfl
@[simp] theorem State.reg_setMode (m : Mode) (r : RegIdx) : (s.setMode m).reg r = s.reg r := rfl
@[simp] theorem State.reg_setWaitx (x : RegIdx) (r : RegIdx) : (s.setWaitx x).reg r = s.reg r := rfl
@[simp] theorem State.reg_setSp (n : BitVec 5) (r : RegIdx) : (s.setSp n).reg r = s.reg r := rfl
@[simp] theorem State.reg_advance (r : RegIdx) : (s.advance).reg r = s.reg r := rfl
@[simp] theorem State.reg_skipIf (c : Bool) (r : RegIdx) : (s.skipIf c).reg r = s.reg r := rfl
@[simp] theorem State.reg_takeFault (c : ErrCode) (w : Word) (r : RegIdx) : (s.takeFault c w).reg r = s.reg r := rfl
@[simp] theorem State.reg_dropInput (r : RegIdx) : (s.dropInput).reg r = s.reg r := rfl
@[simp] theorem State.reg_push (a : Word) (h : s.sp.toNat < 16) (r : RegIdx) : (s.push a h).reg r = s.reg r := rfl
@[simp] theorem State.reg_countdown (r : RegIdx) : (s.countdown).reg r = s.reg r := rfl

/-- A register reads what was last written to it, and no other register changes (R20). -/
theorem State.reg_setReg (x r : RegIdx) (b : Byte) : (s.setReg x b).reg r = if r = x then b else s.reg r := by
  unfold State.reg State.setReg
  rw [Vector.getElem_set]
  by_cases h : r = x
  · simp [h]
  · simp [h, show ¬ x.toNat = r.toNat from fun e => h (BitVec.eq_of_toNat_eq e.symm)]

@[simp] theorem State.reg_setReg_same (x : RegIdx) (b : Byte) : (s.setReg x b).reg x = b := by simp [State.reg_setReg]

/-- The result, then the flag: VF ends holding the flag whatever the destination (R120). -/
theorem State.reg_setResultAndFlag (x r : RegIdx) (b : Byte) (c : Bool) :
    (s.setResultAndFlag x b c).reg r = if r = vf then flagByte c else if r = x then b else s.reg r := by
  simp [State.setResultAndFlag, State.reg_setReg]

theorem State.reg_resolveKey (x r : RegIdx) (k : BitVec 4) :
    (s.resolveKey x k).reg r = if r = x then k.zeroExtend 8 else s.reg r := by
  simp [State.resolveKey, State.reg_setReg]

/-- Two register files are equal when every register reads the same. -/
theorem State.v_ext (t : State) (h : ∀ r, t.reg r = s.reg r) : t.v = s.v := by
  refine Vector.ext fun k hk => ?_
  have := h (BitVec.ofNat 4 k)
  simpa [State.reg, Nat.mod_eq_of_lt hk] using this

end Sys2Proof.Machine
end

