-- ==== Sys2Proof/Laws/Control.lean ====
section
/-! SUPPORT. What the call stack operations answer, case by case on `SP` (40_control_flow.md R91, R93). -/

namespace Sys2Proof.Machine

variable (s : State)

/-- `SP - 1` where an entry is live (R91). -/
theorem State.toNat_sp_sub_one {k : Nat} (h : s.sp.toNat = k + 1) : (s.sp - 1).toNat = k := by
  rw [BitVec.toNat_sub]
  simp
  omega

/-- `SP + 1` where a slot is free (R93). -/
theorem State.toNat_sp_add_one (h : s.sp.toNat < 16) : (s.sp + 1).toNat = s.sp.toNat + 1 := by
  rw [BitVec.toNat_add]
  simp
  omega

theorem execRet_of_empty (h : s.sp = 0) : execRet s = .next (s.takeFault .stackUnderflow 0x0000) := by rw [execRet, if_pos h]

/-- A return with live entries pops the newest one (R91). -/
theorem execRet_of_live (k : Fin 16) (h : s.sp.toNat = k.val + 1) :
    execRet s = .next ((s.setSp (s.sp - 1)).setPc s.stk[k]) := by
  have hne : s.sp ≠ 0 := fun e => by rw [e] at h; simp at h
  have hk : s.stk[(s.sp - 1).toNat]? = some s.stk[k] := by rw [s.toNat_sp_sub_one h]; simp
  rw [execRet, if_neg hne, hk]

theorem execCall_of_full (nnn : Addr) (h : s.sp = 16) :
    execCall nnn s = .next (s.takeFault .stackOverflow (zextAddr nnn)) := by rw [execCall, if_pos h]

/-- A call with a free slot pushes the address after it (R93). -/
theorem execCall_of_free (nnn : Addr) (h : s.sp.toNat < 16) :
    execCall nnn s = .next ((s.push (s.pc + 2) h).setPc (zextAddr nnn)) := by
  have hne : s.sp ≠ 16 := fun e => by rw [e] at h; simp at h
  rw [execCall, if_neg hne, dif_pos h]

/-- Everything a return can do while `SP` is at most 16 (R27, R91). -/
theorem execRet_cases (h : s.sp.toNat ≤ 16) :
    (s.sp = 0 ∧ execRet s = .next (s.takeFault .stackUnderflow 0x0000)) ∨
      ∃ k : Fin 16, s.sp.toNat = k.val + 1 ∧ execRet s = .next ((s.setSp (s.sp - 1)).setPc s.stk[k]) := by
  by_cases h0 : s.sp = 0
  · exact .inl ⟨h0, execRet_of_empty s h0⟩
  · have hpos : s.sp.toNat ≠ 0 := fun e => h0 (BitVec.eq_of_toNat_eq e)
    have hk : s.sp.toNat = (⟨s.sp.toNat - 1, by omega⟩ : Fin 16).val + 1 := by simp; omega
    exact .inr ⟨_, hk, execRet_of_live s _ hk⟩

/-- Everything a call can do while `SP` is at most 16 (R27, R93). -/
theorem execCall_cases (nnn : Addr) (h : s.sp.toNat ≤ 16) :
    (s.sp = 16 ∧ execCall nnn s = .next (s.takeFault .stackOverflow (zextAddr nnn))) ∨
      ∃ hlt : s.sp.toNat < 16, execCall nnn s = .next ((s.push (s.pc + 2) hlt).setPc (zextAddr nnn)) := by
  by_cases h16 : s.sp = 16
  · exact .inl ⟨h16, execCall_of_full s nnn h16⟩
  · have hne : s.sp.toNat ≠ 16 := fun e => h16 (BitVec.eq_of_toNat_eq e)
    exact .inr ⟨by omega, execCall_of_free s nnn (by omega)⟩

end Sys2Proof.Machine
end

