-- ==== Sys2Proof/Laws/Decode.lean ====
section
/-! SUPPORT. The opcode map: no two rows overlap, so a word that hits a row decodes to that row's instruction; and what each row's
fields of an encoded word are. -/

namespace Sys2Proof

/-- Two rows match no word together: they differ in a bit both of them fix. -/
def OpRow.apart (r r' : OpRow) : Bool := r.value &&& r'.mask != r'.value &&& r.mask

theorem OpRow.not_hits_of_apart {r r' : OpRow} (h : r.apart r' = true) {w : Word} (hr : r.hits w = true) : r'.hits w = false := by
  simp only [OpRow.apart, OpRow.hits, bne_iff_ne, ne_eq, beq_iff_eq, beq_eq_false_iff_ne] at *
  intro hr'
  apply h
  rw [← hr, ← hr', BitVec.and_assoc, BitVec.and_assoc, BitVec.and_comm r.mask]

/-- No two rows of the opcode map overlap, so the source's priority order never has to choose (R73). -/
theorem opTable_apart : opTable.Pairwise (fun r r' => r.apart r' = true ∧ r'.apart r = true) := by decide

theorem find_of_pairwise {l : List OpRow} (hl : l.Pairwise (fun r r' => r.apart r' = true ∧ r'.apart r = true)) {r : OpRow}
    (hr : r ∈ l) {w : Word} (hw : r.hits w = true) : l.find? (fun q : OpRow => q.hits w) = some r := by
  induction l with
  | nil => cases hr
  | cons q l ih =>
    rw [List.pairwise_cons] at hl
    rw [List.find?_cons]
    rcases List.mem_cons.mp hr with rfl | hmem
    · simp [hw]
    · simp [OpRow.not_hits_of_apart (hl.1 r hmem).2 hw, ih hl.2 hmem]

/-- A word that hits a row of the opcode map decodes to that row's instruction (R73). -/
theorem decode_of_hits {r : OpRow} (hr : r ∈ opTable) {w : Word} (hw : r.hits w = true) : decode w = some (r.build w) := by
  rw [decode, find_of_pairwise opTable_apart hr hw]
  rfl

/-- A word decodes only to the instruction of a row it hits (R73). -/
theorem exists_row_of_decode {w : Word} {i : Instr} (h : decode w = some i) :
    ∃ r ∈ opTable, r.hits w = true ∧ r.build w = i := by
  rw [decode, Option.map_eq_some_iff] at h
  obtain ⟨r, hf, hb⟩ := h
  exact ⟨r, List.mem_of_find?_eq_some hf, List.find?_some (p := fun r : OpRow => r.hits w) hf, hb⟩

/-- A word that hits no row is illegal (R76). -/
theorem decode_eq_none_iff {w : Word} : decode w = none ↔ ∀ r ∈ opTable, r.hits w = false := by
  rw [decode, Option.map_eq_none_iff, List.find?_eq_none]
  simp

/-! ### The fields of a word put together from nibbles -/

variable (c x y n : BitVec 4) (kk : Byte) (nnn : Addr)

@[simp] theorem fieldNNN_nnn : fieldNNN (c ++ nnn) = nnn := by
  apply BitVec.eq_of_getLsbD_eq
  intro i hi
  simp only [fieldNNN, BitVec.getLsbD_extractLsb', BitVec.getLsbD_append]
  simp [hi]

@[simp] theorem fieldX_xkk : fieldX (c ++ x ++ kk) = x := by
  apply BitVec.eq_of_getLsbD_eq
  intro i hi
  simp only [fieldX, BitVec.getLsbD_extractLsb', BitVec.getLsbD_append]
  simp [hi, show ¬ 8 + i < 8 by omega]

@[simp] theorem fieldKK_xkk : fieldKK (c ++ x ++ kk) = kk := by
  apply BitVec.eq_of_getLsbD_eq
  intro i hi
  simp only [fieldKK, BitVec.getLsbD_extractLsb', BitVec.getLsbD_append]
  simp [hi]

@[simp] theorem fieldX_xyn : fieldX (c ++ x ++ y ++ n) = x := by
  apply BitVec.eq_of_getLsbD_eq
  intro i hi
  simp only [fieldX, BitVec.getLsbD_extractLsb', BitVec.getLsbD_append]
  simp [hi, show ¬ 8 + i < 4 by omega, show ¬ 8 + i - 4 < 4 by omega, show 8 + i - 4 - 4 = i by omega]

@[simp] theorem fieldY_xyn : fieldY (c ++ x ++ y ++ n) = y := by
  apply BitVec.eq_of_getLsbD_eq
  intro i hi
  simp only [fieldY, BitVec.getLsbD_extractLsb', BitVec.getLsbD_append]
  simp [hi, show ¬ 4 + i < 4 by omega]

@[simp] theorem fieldN_xyn : fieldN (c ++ x ++ y ++ n) = n := by
  apply BitVec.eq_of_getLsbD_eq
  intro i hi
  simp only [fieldN, BitVec.getLsbD_extractLsb', BitVec.getLsbD_append]
  simp [hi]

/-! ### Masking a word put together from nibbles (the masks of R71) -/

theorem and_nibble_ones : c &&& 0xF#4 = c := by revert c; decide

theorem and_byte_ones : kk &&& 0xFF#8 = kk := BitVec.and_allOnes


theorem and_F000_nnn : (c ++ nnn : Word) &&& 0xF000 = c ++ 0x000#12 := by
  rw [show (0xF000 : Word) = 0xF#4 ++ 0x000#12 by decide, BitVec.and_append]
  simp [and_nibble_ones]

theorem and_F000_xkk : (c ++ x ++ kk : Word) &&& 0xF000 = c ++ 0x0#4 ++ 0x00#8 := by
  rw [show (0xF000 : Word) = 0xF#4 ++ 0x0#4 ++ 0x00#8 by decide, BitVec.and_append, BitVec.and_append]
  simp [and_nibble_ones]

theorem and_F0FF_xkk : (c ++ x ++ kk : Word) &&& 0xF0FF = c ++ 0x0#4 ++ kk := by
  rw [show (0xF0FF : Word) = 0xF#4 ++ 0x0#4 ++ 0xFF#8 by decide, BitVec.and_append, BitVec.and_append]
  simp [and_nibble_ones, and_byte_ones]

theorem and_F00F_xyn : (c ++ x ++ y ++ n : Word) &&& 0xF00F = c ++ 0x0#4 ++ 0x0#4 ++ n := by
  rw [show (0xF00F : Word) = 0xF#4 ++ 0x0#4 ++ 0x0#4 ++ 0xF#4 by decide, BitVec.and_append, BitVec.and_append, BitVec.and_append]
  simp [and_nibble_ones]

theorem and_F000_xyn : (c ++ x ++ y ++ n : Word) &&& 0xF000 = c ++ 0x0#4 ++ 0x0#4 ++ 0x0#4 := by
  rw [show (0xF000 : Word) = 0xF#4 ++ 0x0#4 ++ 0x0#4 ++ 0x0#4 by decide, BitVec.and_append, BitVec.and_append, BitVec.and_append]
  simp [and_nibble_ones]

/-- Every word is its class nibble and its three other nibbles (R70). -/
theorem word_nibbles (w : Word) : w = w.extractLsb' 12 4 ++ fieldX w ++ fieldY w ++ fieldN w := by
  apply BitVec.eq_of_getLsbD_eq
  intro i hi
  simp only [BitVec.getLsbD_append, fieldX, fieldY, fieldN, BitVec.getLsbD_extractLsb']
  by_cases h1 : i < 4
  · simp [h1]
  · by_cases h2 : i < 8
    · simp [h1, show i - 4 < 4 by omega, show 4 + (i - 4) = i by omega]
    · by_cases h3 : i < 12
      · simp [h1, show ¬ i - 4 < 4 by omega, show i - 4 - 4 < 4 by omega, show 8 + (i - 4 - 4) = i by omega]
      · simp [h1, show ¬ i - 4 < 4 by omega, show ¬ i - 4 - 4 < 4 by omega, show i - 4 - 4 - 4 < 4 by omega,
          show 12 + (i - 4 - 4 - 4) = i by omega]

end Sys2Proof
end

