-- ==== Sys2Proof/Laws/Display.lean ====
section
/-! SUPPORT. What a draw does to each pixel and to the collision flag (44_display.md R142), in closed form: the loops of
`Canvas.drawByte` and `Canvas.drawSprite` are unfolded here once. -/

namespace Sys2Proof.Machine

/-- The bit of an `n`-row sprite, whose bytes lie from address `base` up, that lands on the pixel in row `r` and column `c` when
its top left pixel is in row `y0` and column `x0`, both axes wrapping (44_display.md R142): row `r - y0` of the sprite, bit 7
leftmost; false outside the sprite. -/
def spriteBit (mem : Memory) (base x0 y0 n : Nat) (r : Fin 32) (c : Fin 64) : Bool :=
  let row := (r.val + 32 - y0 % 32) % 32
  let col := (c.val + 64 - x0 % 64) % 64
  decide (row < n) && decide (col < 8) && (mem.read (base + row)).getLsbD (7 - col)

@[simp] theorem pixel_clearFb (r : Fin 32) (c : Fin 64) : pixel clearFb r c = false := by
  simp [pixel, clearFb]

/-- Two framebuffers are equal when every pixel is. -/
theorem fb_ext {f g : Vector (BitVec 64) 32} (h : ∀ r c, pixel f r c = pixel g r c) : f = g := by
  refine Vector.ext fun r hr => BitVec.eq_of_getLsbD_eq fun c hc => ?_
  exact h ⟨r, hr⟩ ⟨c, hc⟩

/-- Flipping a pixel flips it and no other. -/
theorem pixel_flipPixel (fb : Vector (BitVec 64) 32) (r r' : Fin 32) (c c' : Fin 64) :
    pixel (flipPixel fb r c) r' c' = (pixel fb r' c' ^^ decide (r' = r ∧ c' = c)) := by
  by_cases hr : r' = r
  · subst hr
    simp [pixel, flipPixel, Fin.ext_iff, eq_comm]
  · have : ¬ r.val = r'.val := fun e => hr (Fin.ext e.symm)
    simp [pixel, flipPixel, hr, this]

/-- How far to the right of column `x0` column `c` lies, wrapping. -/
def colAfter (x0 : Nat) (c : Fin 64) : Nat := (c.val + 64 - x0 % 64) % 64

/-- How far below row `y0` row `r` lies, wrapping. -/
def rowAfter (y0 : Nat) (r : Fin 32) : Nat := (r.val + 32 - y0 % 32) % 32

theorem eq_colOf_iff {x0 k : Nat} (hk : k < 64) (c : Fin 64) : c = colOf (x0 + k) ↔ colAfter x0 c = k := by
  simp only [Fin.ext_iff, colOf, colAfter]
  omega

theorem eq_rowOf_iff {y0 k : Nat} (hk : k < 32) (r : Fin 32) : r = rowOf (y0 + k) ↔ rowAfter y0 r = k := by
  simp only [Fin.ext_iff, rowOf, rowAfter]
  omega

@[simp] theorem colAfter_colOf {x0 k : Nat} (hk : k < 64) : colAfter x0 (colOf (x0 + k)) = k := (eq_colOf_iff hk _).mp rfl

@[simp] theorem rowAfter_rowOf {y0 k : Nat} (hk : k < 32) : rowAfter y0 (rowOf (y0 + k)) = k := (eq_rowOf_iff hk _).mp rfl

/-- A sprite bit in the terms of the two distances. -/
theorem spriteBit_eq (mem : Memory) (base x0 y0 n : Nat) (r : Fin 32) (c : Fin 64) :
    spriteBit mem base x0 y0 n r c =
      (decide (rowAfter y0 r < n) && decide (colAfter x0 c < 8) &&
        (mem.read (base + rowAfter y0 r)).getLsbD (7 - colAfter x0 c)) := rfl

/-! ### One byte -/

/-- The first `k` pixels of a sprite byte. -/
def Canvas.drawBits (cv : Canvas) (r : Fin 32) (x0 : Nat) (b : Byte) (k : Nat) : Canvas :=
  (List.range k).foldl (fun cv c => if b.getLsbD (7 - c) then cv.drawBit r (colOf (x0 + c)) else cv) cv

theorem Canvas.drawBits_succ (cv : Canvas) (r : Fin 32) (x0 : Nat) (b : Byte) (k : Nat) :
    cv.drawBits r x0 b (k + 1) =
      if b.getLsbD (7 - k) then (cv.drawBits r x0 b k).drawBit r (colOf (x0 + k)) else cv.drawBits r x0 b k := by
  simp [Canvas.drawBits, List.range_succ]

theorem Canvas.pixel_drawBits (cv : Canvas) (r : Fin 32) (x0 : Nat) (b : Byte) {k : Nat} (hk : k ≤ 8) (r' : Fin 32) (c' : Fin 64) :
    pixel (cv.drawBits r x0 b k).fb r' c' =
      (pixel cv.fb r' c' ^^ (decide (r' = r) && decide (colAfter x0 c' < k) && b.getLsbD (7 - colAfter x0 c'))) := by
  induction k with
  | zero => simp [Canvas.drawBits]
  | succ k ih =>
    have ih := ih (by omega)
    have hcol := eq_colOf_iff (x0 := x0) (k := k) (by omega) c'
    rw [Canvas.drawBits_succ]
    by_cases hb : b.getLsbD (7 - k) = true
    · rw [if_pos hb, Canvas.drawBit, pixel_flipPixel, ih]
      simp only [hcol]
      by_cases hr : r' = r
      · rcases Nat.lt_trichotomy (colAfter x0 c') k with h | h | h
        · simp [hr, h, Nat.ne_of_lt h, show colAfter x0 c' < k + 1 by omega]
        · simp [hr, h, hb]
        · simp [hr, show ¬ colAfter x0 c' < k by omega, show ¬ colAfter x0 c' = k by omega, show ¬ colAfter x0 c' < k + 1 by omega]
      · simp [hr]
    · rw [if_neg hb, ih]
      by_cases h : colAfter x0 c' = k
      · simp [h, Bool.not_eq_true _ ▸ hb]
      · simp [show (colAfter x0 c' < k + 1) ↔ (colAfter x0 c' < k) by omega]

theorem Canvas.hit_drawBits (cv : Canvas) (r : Fin 32) (x0 : Nat) (b : Byte) {k : Nat} (hk : k ≤ 8) :
    (cv.drawBits r x0 b k).hit = true ↔
      cv.hit = true ∨ ∃ c, colAfter x0 c < k ∧ b.getLsbD (7 - colAfter x0 c) = true ∧ pixel cv.fb r c = true := by
  induction k with
  | zero => simp [Canvas.drawBits]
  | succ k ih =>
    have ih := ih (by omega)
    have hk64 : k < 64 := by omega
    have hpix := Canvas.pixel_drawBits cv r x0 b (k := k) (by omega) r (colOf (x0 + k))
    rw [Canvas.drawBits_succ]
    by_cases hb : b.getLsbD (7 - k) = true
    · rw [if_pos hb, Canvas.drawBit]
      simp only [Bool.or_eq_true, ih, hpix, colAfter_colOf hk64]
      constructor
      · rintro ((h | ⟨c, hc, hbc, hp⟩) | h)
        · exact .inl h
        · exact .inr ⟨c, by omega, hbc, hp⟩
        · exact .inr ⟨colOf (x0 + k), by simp [colAfter_colOf hk64], by simpa [colAfter_colOf hk64] using hb, by simpa using h⟩
      · rintro (h | ⟨c, hc, hbc, hp⟩)
        · exact .inl (.inl h)
        · by_cases hck : colAfter x0 c = k
          · refine .inr ?_
            rw [← (eq_colOf_iff hk64 c).mpr hck]
            simpa using hp
          · exact .inl (.inr ⟨c, by omega, hbc, hp⟩)
    · rw [if_neg hb, ih]
      refine or_congr Iff.rfl (exists_congr fun c => ?_)
      constructor
      · rintro ⟨hc, h⟩
        exact ⟨by omega, h⟩
      · rintro ⟨hc, hbc, hp⟩
        refine ⟨?_, hbc, hp⟩
        rcases Nat.lt_succ_iff_lt_or_eq.mp hc with h | h
        · exact h
        · rw [h] at hbc
          exact absurd hbc hb

/-! ### The whole sprite -/

theorem Canvas.drawSprite_succ (cv : Canvas) (mem : Memory) (base x0 y0 n : Nat) :
    cv.drawSprite mem base x0 y0 (n + 1) =
      (cv.drawSprite mem base x0 y0 n).drawBits (rowOf (y0 + n)) x0 (mem.read (base + n)) 8 := by
  simp [Canvas.drawSprite, List.range_succ, Canvas.drawByte, Canvas.drawBits]

/-- Every pixel after a draw: the old pixel XOR the sprite bit that lands on it (R142); no pixel is touched twice (R143). -/
theorem Canvas.pixel_drawSprite (cv : Canvas) (mem : Memory) (base x0 y0 : Nat) {n : Nat} (hn : n ≤ 32) (r : Fin 32) (c : Fin 64) :
    pixel (cv.drawSprite mem base x0 y0 n).fb r c = (pixel cv.fb r c ^^ spriteBit mem base x0 y0 n r c) := by
  simp only [spriteBit_eq]
  induction n with
  | zero => simp [Canvas.drawSprite]
  | succ n ih =>
    have ih := ih (by omega)
    have hrow := eq_rowOf_iff (y0 := y0) (k := n) (by omega) r
    rw [Canvas.drawSprite_succ, Canvas.pixel_drawBits _ _ _ _ (Nat.le_refl 8), ih]
    simp only [hrow]
    rcases Nat.lt_trichotomy (rowAfter y0 r) n with h | h | h
    · simp [h, Nat.ne_of_lt h, show rowAfter y0 r < n + 1 by omega]
    · simp [h]
    · simp [show ¬ rowAfter y0 r < n by omega, show ¬ rowAfter y0 r = n by omega, show ¬ rowAfter y0 r < n + 1 by omega]

/-- The collision of a draw: some sprite bit of 1 landed on a pixel that was 1 before the draw (R142). -/
theorem Canvas.hit_drawSprite (cv : Canvas) (mem : Memory) (base x0 y0 : Nat) {n : Nat} (hn : n ≤ 32) :
    (cv.drawSprite mem base x0 y0 n).hit = true ↔
      cv.hit = true ∨ ∃ r c, spriteBit mem base x0 y0 n r c = true ∧ pixel cv.fb r c = true := by
  induction n with
  | zero => simp [Canvas.drawSprite, spriteBit]
  | succ n ih =>
    have ih := ih (by omega)
    have hn32 : n < 32 := by omega
    rw [Canvas.drawSprite_succ, Canvas.hit_drawBits _ _ _ _ (Nat.le_refl 8), ih, or_assoc]
    refine or_congr Iff.rfl ?_
    simp only [Canvas.pixel_drawSprite cv mem base x0 y0 (n := n) (by omega), spriteBit_eq, rowAfter_rowOf hn32]
    constructor
    · rintro (⟨r, c, hs, hp⟩ | ⟨c, hc, hb, hp⟩)
      · refine ⟨r, c, ?_, hp⟩
        simp only [Bool.and_eq_true, decide_eq_true_eq] at hs ⊢
        exact ⟨⟨by omega, hs.1.2⟩, hs.2⟩
      · exact ⟨rowOf (y0 + n), c, by simp [rowAfter_rowOf hn32, hc, hb], by simpa using hp⟩
    · rintro ⟨r, c, hs, hp⟩
      simp only [Bool.and_eq_true, decide_eq_true_eq] at hs
      by_cases h : rowAfter y0 r = n
      · refine .inr ⟨c, hs.1.2, h ▸ hs.2, ?_⟩
        rw [← (eq_rowOf_iff hn32 r).mpr h]
        simpa using hp
      · refine .inl ⟨r, c, ?_, hp⟩
        simp only [Bool.and_eq_true, decide_eq_true_eq]
        exact ⟨⟨by omega, hs.1.2⟩, hs.2⟩

/-! ### The state after `Dxyn` -/

variable (s : State) (x y : RegIdx) (n : Count)

/-- Reducing the origin first (R142) changes no sprite bit: both axes wrap. -/
theorem spriteBit_mod (mem : Memory) (base x0 y0 n : Nat) (r : Fin 32) (c : Fin 64) :
    spriteBit mem base (x0 % 64) (y0 % 32) n r c = spriteBit mem base x0 y0 n r c := by
  simp [spriteBit]

/-- Bit `7 - c` of sprite row `r` lands on the pixel `r` rows below and `c` columns right of the origin (R142). -/
theorem spriteBit_of_lt (mem : Memory) (base x0 y0 : Nat) {n r c : Nat} (hn : n ≤ 32) (hr : r < n) (hc : c < 8) :
    spriteBit mem base x0 y0 n ⟨(y0 % 32 + r) % 32, Nat.mod_lt _ (by decide)⟩ ⟨(x0 % 64 + c) % 64, Nat.mod_lt _ (by decide)⟩ =
      (mem.read (base + r)).getLsbD (7 - c) := by
  have hrow : ((y0 % 32 + r) % 32 + 32 - y0 % 32) % 32 = r := by omega
  have hcol : ((x0 % 64 + c) % 64 + 64 - x0 % 64) % 64 = c := by omega
  simp only [spriteBit, hrow, hcol, hr, hc, decide_true, Bool.true_and]

/-- Every sprite bit of 1 is some bit of some sprite row (R142). -/
theorem exists_of_spriteBit {mem : Memory} {base x0 y0 n : Nat} {p : Fin 32} {q : Fin 64}
    (h : spriteBit mem base x0 y0 n p q = true) :
    ∃ r c, r < n ∧ c < 8 ∧ (mem.read (base + r)).getLsbD (7 - c) = true ∧
      p = ⟨(y0 % 32 + r) % 32, Nat.mod_lt _ (by decide)⟩ ∧ q = ⟨(x0 % 64 + c) % 64, Nat.mod_lt _ (by decide)⟩ := by
  simp only [spriteBit, Bool.and_eq_true, decide_eq_true_eq] at h
  refine ⟨_, _, h.1.1, h.1.2, h.2, Fin.ext ?_, Fin.ext ?_⟩
  · show p.val = _ % 32
    omega
  · show q.val = _ % 64
    omega

@[simp] theorem State.drawn_mem (k : Nat) : (s.drawn x y k).mem = s.mem := rfl
@[simp] theorem State.drawn_i (k : Nat) : (s.drawn x y k).i = s.i := rfl
@[simp] theorem State.drawn_pc (k : Nat) : (s.drawn x y k).pc = s.pc + 2 := rfl
@[simp] theorem State.drawn_mode (k : Nat) : (s.drawn x y k).mode = s.mode := rfl

/-- Every pixel after `Dxyn` (R142). -/
theorem State.pixel_drawn (p : Fin 32) (q : Fin 64) :
    pixel (s.drawn x y n.toNat).fb p q =
      (pixel s.fb p q ^^ spriteBit s.mem s.i.toNat (s.reg x).toNat (s.reg y).toNat n.toNat p q) := by
  have h := Canvas.pixel_drawSprite ⟨s.fb, false⟩ s.mem (s.effAddr 0) ((s.reg x).toNat % 64) ((s.reg y).toNat % 32)
    (n := n.toNat) (by omega) p q
  rw [spriteBit_mod] at h
  exact h

/-- No register but VF changes in `Dxyn` (R142). -/
theorem State.reg_drawn_of_ne (k : Nat) {r : RegIdx} (h : r ≠ vf) : (s.drawn x y k).reg r = s.reg r := by
  simp only [State.drawn, State.reg_advance, State.reg_setReg, State.reg_setFb, if_neg h]

/-- VF after `Dxyn` is 0x01 exactly when a sprite bit of 1 met a set pixel (R142). -/
theorem State.reg_vf_drawn_eq_one :
    (s.drawn x y n.toNat).reg vf = 0x01 ↔
      ∃ p q, spriteBit s.mem s.i.toNat (s.reg x).toNat (s.reg y).toNat n.toNat p q = true ∧ pixel s.fb p q = true := by
  have h := Canvas.hit_drawSprite ⟨s.fb, false⟩ s.mem (s.effAddr 0) ((s.reg x).toNat % 64) ((s.reg y).toNat % 32)
    (n := n.toNat) (by omega)
  simp only [Bool.false_eq_true, false_or, spriteBit_mod] at h
  refine Iff.trans ?_ h
  rw [State.drawn, State.reg_advance, State.reg_setReg_same]
  generalize (Canvas.drawSprite _ _ _ _ _ _).hit = b
  cases b <;> decide

/-- VF after `Dxyn` is 0x00 exactly when it is not 0x01 (R22, R142). -/
theorem State.reg_vf_drawn_eq_zero :
    (s.drawn x y n.toNat).reg vf = 0x00 ↔ ¬ (s.drawn x y n.toNat).reg vf = 0x01 := by
  rw [State.drawn, State.reg_advance, State.reg_setReg_same]
  generalize (Canvas.drawSprite _ _ _ _ _ _).hit = b
  cases b <;> decide

end Sys2Proof.Machine
end

