-- ==== Sys2Proof/Laws/Operands.lean ====
section
/-! SUPPORT. What each operand form gives: the bounds check of a data access (20_memory.md R60), the lowest key down (45_keypad.md
R155), and the registers stored and loaded by a transfer (47_memory_transfer.md R172, R173). -/

namespace Sys2Proof.Machine

variable (s : State)

/-! ### The bounds check -/

/-- A data access is in bounds when it reads nothing or its last byte is in memory (R60). -/
theorem State.rangeFault_eq_none_iff (c : Nat) : s.rangeFault c = none ↔ c = 0 ∨ s.i.toNat + c ≤ 0x1000 := by
  unfold State.rangeFault
  split <;> rename_i h <;> unfold State.effAddr at h <;> simp <;> omega

/-- An access out of bounds reports the lowest out-of-range address, `max(I, 0x1000)` (R60). -/
theorem State.rangeFault_eq_some_iff (c : Nat) (a : Word) :
    s.rangeFault c = some a ↔ 1 ≤ c ∧ 0x1000 < s.i.toNat + c ∧ a.toNat = max s.i.toNat 0x1000 := by
  unfold State.rangeFault
  split <;> rename_i h <;> unfold State.effAddr at h
  · have h1 : 0x1000 < s.i.toNat + c := by omega
    rw [Option.some_inj]
    by_cases hi : s.i.toNat < 0x1000
    · rw [if_pos hi]
      refine ⟨fun e => ⟨h.1, h1, ?_⟩, fun e => BitVec.eq_of_toNat_eq ?_⟩
      · rw [← e, Nat.max_eq_right (by omega)]; rfl
      · rw [e.2.2, Nat.max_eq_right (by omega)]; rfl
    · rw [if_neg hi]
      refine ⟨fun e => ⟨h.1, h1, ?_⟩, fun e => BitVec.eq_of_toNat_eq ?_⟩
      · rw [← e, Nat.max_eq_left (by omega)]
      · rw [e.2.2, Nat.max_eq_left (by omega)]
  · simp only [reduceCtorEq, false_iff]
    omega

/-- A data access takes the fault of R60 or has its effect, and nothing else (R60: the whole range is checked first). -/
theorem State.dataAccess_eq (c : Nat) (e : State) :
    (s.dataAccess c e = .next e ∧ (c = 0 ∨ s.i.toNat + c ≤ 0x1000)) ∨
      ∃ a : Word, s.dataAccess c e = .next (s.takeFault .dataAddressOutOfBounds a) ∧ s.rangeFault c = some a ∧
        1 ≤ c ∧ 0x1000 < s.i.toNat + c ∧ a.toNat = max s.i.toNat 0x1000 := by
  unfold State.dataAccess
  cases h : s.rangeFault c with
  | none => exact .inl ⟨rfl, (s.rangeFault_eq_none_iff c).mp h⟩
  | some a => exact .inr ⟨a, rfl, rfl, (s.rangeFault_eq_some_iff c a).mp h⟩

theorem State.dataAccess_of_inBounds {c : Nat} (e : State) (h : c = 0 ∨ s.i.toNat + c ≤ 0x1000) : s.dataAccess c e = .next e := by
  rw [State.dataAccess, (s.rangeFault_eq_none_iff c).mpr h]

/-! ### Keys -/

/-- The lowest key down: it is down and no lower one is (R155). -/
theorem lowestKey_eq_some_iff (keys : BitVec 16) (k : BitVec 4) :
    lowestKey keys = some k ↔ keyDown keys k.toNat = true ∧ ∀ j, j < k.toNat → keyDown keys j = false := by
  unfold lowestKey
  rw [Option.map_eq_some_iff]
  constructor
  · rintro ⟨a, ha, rfl⟩
    rw [List.find?_range_eq_some] at ha
    have h16 : a < 16 := List.mem_range.mp ha.2.1
    rw [BitVec.toNat_ofNat, Nat.mod_eq_of_lt (by omega)]
    exact ⟨ha.1, fun j hj => by simpa using ha.2.2 j hj⟩
  · rintro ⟨h1, h2⟩
    refine ⟨k.toNat, ?_, by simp⟩
    rw [List.find?_range_eq_some]
    exact ⟨h1, List.mem_range.mpr k.isLt, fun j hj => by simp [h2 j hj]⟩

/-- No key is down exactly when the snapshot is 0 (R152, R155). -/
theorem lowestKey_eq_none_iff (keys : BitVec 16) : lowestKey keys = none ↔ keys = 0 := by
  unfold lowestKey
  rw [Option.map_eq_none_iff, List.find?_eq_none]
  constructor
  · intro h
    refine BitVec.eq_of_getLsbD_eq fun j hj => ?_
    have := h j (List.mem_range.mpr hj)
    simpa [keyDown] using this
  · rintro rfl k -
    simp [keyDown]

/-! ### Registers stored and loaded -/

@[simp] theorem State.length_regsUpTo (x : RegIdx) : (s.regsUpTo x).length = x.toNat + 1 := by simp [State.regsUpTo]

theorem State.getElem_regsUpTo (x : RegIdx) (k : Nat) (h : k < (s.regsUpTo x).length) :
    (s.regsUpTo x)[k] = s.reg (BitVec.ofNat 4 k) := by simp [State.regsUpTo]

/-- The registers after loading `V[0]` to `V[k-1]` from `I` up. -/
theorem State.reg_loadLoop (k : Nat) (hk : k ≤ 16) (r : RegIdx) :
    ((List.range k).foldl (fun t j => t.setReg (BitVec.ofNat 4 j) (s.mem.read (s.effAddr j))) s).reg r =
      if r.toNat < k then s.mem.read (s.effAddr r.toNat) else s.reg r := by
  induction k with
  | zero => simp
  | succ k ih =>
    rw [List.range_succ, List.foldl_append, List.foldl_cons, List.foldl_nil, State.reg_setReg, ih (by omega)]
    by_cases h : r = BitVec.ofNat 4 k
    · subst h
      simp [Nat.mod_eq_of_lt (show k < 16 by omega)]
    · have : r.toNat ≠ k := fun e => h (by rw [← e]; simp)
      rw [if_neg h]
      by_cases h2 : r.toNat < k
      · rw [if_pos h2, if_pos (by omega)]
      · rw [if_neg h2, if_neg (by omega)]

/-- `Fx65` loads `V[0]` to `V[x]` and leaves every higher register (R173). -/
theorem State.reg_regsLoaded (x r : RegIdx) :
    (s.regsLoaded x).reg r = if r.toNat ≤ x.toNat then s.mem.read (s.effAddr r.toNat) else s.reg r := by
  rw [State.regsLoaded, State.reg_loadLoop _ _ x.isLt]
  simp

/-- `Fx65` writes the register file and nothing else before it advances (R173). -/
theorem State.regsLoaded_eq (x : RegIdx) : s.regsLoaded x = { s with v := (s.regsLoaded x).v } := by
  unfold State.regsLoaded
  suffices H : ∀ (l : List Nat) (t : State), { s with v := t.v } = t →
      { s with v := (l.foldl (fun t k => t.setReg (BitVec.ofNat 4 k) (s.mem.read (s.effAddr k))) t).v } =
        l.foldl (fun t k => t.setReg (BitVec.ofNat 4 k) (s.mem.read (s.effAddr k))) t from (H _ s rfl).symm
  intro l
  induction l with
  | nil => exact fun t h => h
  | cons k l ih =>
    intro t h
    refine ih _ ?_
    rw [← h]
    rfl

end Sys2Proof.Machine
end

