-- ==== Sys2Proof/Laws/Exec.lean ====
section
/-! SUPPORT. The three things executing an instruction can do: take a fault that is due, begin a wait, or leave the mode and the
fault record alone. No later proof unfolds the meanings to learn which. -/

namespace Sys2Proof.Machine

/-- The fault an instruction takes is due in the state it executes in, with the information the spec gives it (R180, R185 to R187,
R192). -/
def FaultTaken (i : Instr) (s : State) : ErrCode → Word → Prop
  | .stackOverflow, info => s.sp = 16 ∧ ∃ nnn, i = .call nnn ∧ info = zextAddr nnn
  | .stackUnderflow, info => s.sp = 0 ∧ i = .ret ∧ info = 0x0000
  | .dataAddressOutOfBounds, info => s.rangeFault (dataBytes i) = some info
  | .keyIndexOutOfRange, info => ∃ x, (i = .skp x ∨ i = .sknp x) ∧ 15 < (s.reg x).toNat ∧ info = zextByte (s.reg x)
  | .none, _ | .fetchOutOfBounds, _ | .illegalInstruction, _ => False

/-- The mode, the fault record, `WAITX` and the inputs are as they were. -/
structure Quiet (s t : State) : Prop where
  mode : t.mode = s.mode
  err : t.err = s.err
  errinfo : t.errinfo = s.errinfo
  waitx : t.waitx = s.waitx
  inputs : t.inputs = s.inputs
  tickNo : t.tickNo = s.tickNo

theorem dataAccess_cases {s t e : State} {i : Instr} (h : s.dataAccess (dataBytes i) e = .next t) :
    (∃ a, t = s.takeFault .dataAddressOutOfBounds a ∧ FaultTaken i s .dataAddressOutOfBounds a) ∨ t = e := by
  unfold State.dataAccess at h
  cases hr : s.rangeFault (dataBytes i) with
  | none => rw [hr] at h; cases h; exact .inr rfl
  | some a => rw [hr] at h; cases h; exact .inl ⟨a, rfl, hr⟩

theorem keySkip_cases (s : State) (x : RegIdx) (wanted : Bool) :
    (15 < (s.reg x).toNat ∧ s.keySkip x wanted = s.takeFault .keyIndexOutOfRange (zextByte (s.reg x))) ∨
      ((s.reg x).toNat ≤ 15 ∧ s.keySkip x wanted = s.skipIf (keyDown s.keys (s.reg x).toNat == wanted)) := by
  unfold State.keySkip
  split
  · exact .inl ⟨‹_›, rfl⟩
  · exact .inr ⟨by omega, rfl⟩

/-- Everything executing an instruction can do to the mode and the fault record. -/
theorem exec_cases {i : Instr} {s t : State} (h : exec i s = .next t) :
    (∃ code info, t = s.takeFault code info ∧ FaultTaken i s code info) ∨
      (∃ x, i = .ldVxK x ∧ s.keys = 0 ∧ t = (s.setWaitx x).setMode .awaitingKey) ∨ Quiet s t := by
  have data {e : State} (he : s.dataAccess (dataBytes i) e = .next t) (q : Quiet s e) :
      (∃ code info, t = s.takeFault code info ∧ FaultTaken i s code info) ∨
        (∃ x, i = .ldVxK x ∧ s.keys = 0 ∧ t = (s.setWaitx x).setMode .awaitingKey) ∨ Quiet s t := by
    rcases dataAccess_cases he with ⟨a, ha⟩ | rfl
    · exact .inl ⟨_, a, ha⟩
    · exact .inr (.inr q)
  cases i with
  | drw x y n => exact data h ⟨rfl, rfl, rfl, rfl, rfl, rfl⟩
  | ldB x => exact data h ⟨rfl, rfl, rfl, rfl, rfl, rfl⟩
  | ldMemVx x => exact data h ⟨rfl, rfl, rfl, rfl, rfl, rfl⟩
  | ldVxMem x =>
    refine data h ?_
    rw [s.regsLoaded_eq]
    exact ⟨rfl, rfl, rfl, rfl, rfl, rfl⟩
  | ret =>
    change execRet s = .next t at h
    unfold execRet at h
    split at h
    · cases h
      exact .inl ⟨_, _, rfl, ‹_›, rfl, rfl⟩
    · split at h
      · cases h
        exact .inr (.inr ⟨rfl, rfl, rfl, rfl, rfl, rfl⟩)
      · cases h
  | call nnn =>
    change execCall nnn s = .next t at h
    unfold execCall at h
    split at h
    · cases h
      exact .inl ⟨_, _, rfl, ‹_›, nnn, rfl, rfl⟩
    · split at h
      · cases h
        exact .inr (.inr ⟨rfl, rfl, rfl, rfl, rfl, rfl⟩)
      · cases h
  | skp x =>
    cases h
    rcases keySkip_cases s x true with ⟨hx, e⟩ | ⟨-, e⟩ <;> rw [e]
    · exact .inl ⟨_, _, rfl, x, .inl rfl, hx, rfl⟩
    · exact .inr (.inr ⟨rfl, rfl, rfl, rfl, rfl, rfl⟩)
  | sknp x =>
    cases h
    rcases keySkip_cases s x false with ⟨hx, e⟩ | ⟨-, e⟩ <;> rw [e]
    · exact .inl ⟨_, _, rfl, x, .inr rfl, hx, rfl⟩
    · exact .inr (.inr ⟨rfl, rfl, rfl, rfl, rfl, rfl⟩)
  | ldVxK x =>
    change Host.Outcome.next _ = .next t at h
    cases hk : lowestKey s.keys with
    | none =>
      rw [hk] at h
      cases h
      exact .inr (.inl ⟨x, rfl, (lowestKey_eq_none_iff _).mp hk, rfl⟩)
    | some k =>
      rw [hk] at h
      cases h
      exact .inr (.inr ⟨rfl, rfl, rfl, rfl, rfl, rfl⟩)
  | cls | jp | seImm | sneImm | seReg | ldImm | addImm | ldReg | orReg | andReg | xorReg | addReg | sub | shr | subn | shl | sneReg
  | ldI | rnd | ldVxDt | ldDtVx | ldStVx | addI | ldF =>
    cases h
    exact .inr (.inr ⟨rfl, rfl, rfl, rfl, rfl, rfl⟩)

end Sys2Proof.Machine
end

