-- ==== Sys2Proof/Laws/Flags.lean ====
section
/-! SUPPORT. Each flag as the number VF receives (10_state.md R22: exactly 0x00 or 0x01). -/

namespace Sys2Proof.Machine

theorem toNat_flagByte (c : Bool) : (flagByte c).toNat = if c = true then 1 else 0 := by cases c <;> rfl

/-- VF is written 0x00 or 0x01 and nothing else (R22). -/
theorem flagByte_zero_or_one (c : Bool) : flagByte c = 0x00 ∨ flagByte c = 0x01 := by cases c <;> decide

/-- The carry of an addition (R110, R118). -/
theorem toNat_carryFlag (a b : Byte) : (flagByte (carryFlag a b)).toNat = if a.toNat + b.toNat > 255 then 1 else 0 := by
  simp [toNat_flagByte, carryFlag]

/-- The not-borrow of a subtraction (R110, R119, R122). -/
theorem toNat_notBorrowFlag (a b : Byte) : (flagByte (notBorrowFlag a b)).toNat = if a.toNat ≥ b.toNat then 1 else 0 := by
  simp [toNat_flagByte, notBorrowFlag]

/-- The bit shifted out at the bottom (R121). -/
theorem toNat_lowBitFlag (a : Byte) : (flagByte (lowBitFlag a)).toNat = a.toNat % 2 := by revert a; decide

/-- The bit shifted out at the top (R123). -/
theorem toNat_highBitFlag (a : Byte) : (flagByte (highBitFlag a)).toNat = a.toNat / 128 := by revert a; decide

end Sys2Proof.Machine
end

