-- ==== Sys2Proof/Laws/PerInstr.lean ====
section
/-! SUPPORT. Statements about every instruction as syntax, one lemma per constructor: the decoder reads an encoded instruction
back, every operand at every value (30_encoding.md R70 to R74). -/

namespace Sys2Proof.Laws

-- The lemmas of this file are checked one after another: fewer threads, less memory.
set_option Elab.async false

/-- Decoding the word of `i` gives `i` back. -/
def RoundTrip.Statement (i : Instr) : Prop := decode (encode i) = some i

/-- An instruction whose word hits the `k`-th row of the opcode map, where that row builds it back, makes the round trip. -/
theorem RoundTrip.of_row {i : Instr} (k : Fin opTable.length) (hits : opTable[k].hits (encode i) = true)
    (build : opTable[k].build (encode i) = i) : RoundTrip.Statement i :=
  (decode_of_hits (List.getElem_mem _) hits).trans (congrArg some build)

theorem RoundTrip.cls : RoundTrip.Statement (.cls) :=
  (by decide : decode (encode .cls) = some .cls)

theorem RoundTrip.ret : RoundTrip.Statement (.ret) :=
  (by decide : decode (encode .ret) = some .ret)

theorem RoundTrip.jp (nnn : Addr) : RoundTrip.Statement (.jp nnn) :=
  RoundTrip.of_row ⟨2, by decide⟩ (beq_iff_eq.mpr (and_F000_nnn ..)) (by simp [opTable, opRowsLow, opRowsAlu, opRowsHigh, encode])

theorem RoundTrip.call (nnn : Addr) : RoundTrip.Statement (.call nnn) :=
  RoundTrip.of_row ⟨3, by decide⟩ (beq_iff_eq.mpr (and_F000_nnn ..)) (by simp [opTable, opRowsLow, opRowsAlu, opRowsHigh, encode])

theorem RoundTrip.seImm (x : RegIdx) (kk : Byte) : RoundTrip.Statement (.seImm x kk) :=
  RoundTrip.of_row ⟨4, by decide⟩ (beq_iff_eq.mpr (and_F000_xkk ..)) (by simp [opTable, opRowsLow, opRowsAlu, opRowsHigh, encode])

theorem RoundTrip.sneImm (x : RegIdx) (kk : Byte) : RoundTrip.Statement (.sneImm x kk) :=
  RoundTrip.of_row ⟨5, by decide⟩ (beq_iff_eq.mpr (and_F000_xkk ..)) (by simp [opTable, opRowsLow, opRowsAlu, opRowsHigh, encode])

theorem RoundTrip.seReg (x y : RegIdx) : RoundTrip.Statement (.seReg x y) :=
  RoundTrip.of_row ⟨6, by decide⟩ (beq_iff_eq.mpr (and_F00F_xyn ..)) (by simp [opTable, opRowsLow, opRowsAlu, opRowsHigh, encode])

theorem RoundTrip.ldImm (x : RegIdx) (kk : Byte) : RoundTrip.Statement (.ldImm x kk) :=
  RoundTrip.of_row ⟨7, by decide⟩ (beq_iff_eq.mpr (and_F000_xkk ..)) (by simp [opTable, opRowsLow, opRowsAlu, opRowsHigh, encode])

theorem RoundTrip.addImm (x : RegIdx) (kk : Byte) : RoundTrip.Statement (.addImm x kk) :=
  RoundTrip.of_row ⟨8, by decide⟩ (beq_iff_eq.mpr (and_F000_xkk ..)) (by simp [opTable, opRowsLow, opRowsAlu, opRowsHigh, encode])

theorem RoundTrip.ldReg (x y : RegIdx) : RoundTrip.Statement (.ldReg x y) :=
  RoundTrip.of_row ⟨9, by decide⟩ (beq_iff_eq.mpr (and_F00F_xyn ..)) (by simp [opTable, opRowsLow, opRowsAlu, opRowsHigh, encode])

theorem RoundTrip.orReg (x y : RegIdx) : RoundTrip.Statement (.orReg x y) :=
  RoundTrip.of_row ⟨10, by decide⟩ (beq_iff_eq.mpr (and_F00F_xyn ..)) (by simp [opTable, opRowsLow, opRowsAlu, opRowsHigh, encode])

theorem RoundTrip.andReg (x y : RegIdx) : RoundTrip.Statement (.andReg x y) :=
  RoundTrip.of_row ⟨11, by decide⟩ (beq_iff_eq.mpr (and_F00F_xyn ..)) (by simp [opTable, opRowsLow, opRowsAlu, opRowsHigh, encode])

theorem RoundTrip.xorReg (x y : RegIdx) : RoundTrip.Statement (.xorReg x y) :=
  RoundTrip.of_row ⟨12, by decide⟩ (beq_iff_eq.mpr (and_F00F_xyn ..)) (by simp [opTable, opRowsLow, opRowsAlu, opRowsHigh, encode])

theorem RoundTrip.addReg (x y : RegIdx) : RoundTrip.Statement (.addReg x y) :=
  RoundTrip.of_row ⟨13, by decide⟩ (beq_iff_eq.mpr (and_F00F_xyn ..)) (by simp [opTable, opRowsLow, opRowsAlu, opRowsHigh, encode])

theorem RoundTrip.sub (x y : RegIdx) : RoundTrip.Statement (.sub x y) :=
  RoundTrip.of_row ⟨14, by decide⟩ (beq_iff_eq.mpr (and_F00F_xyn ..)) (by simp [opTable, opRowsLow, opRowsAlu, opRowsHigh, encode])

theorem RoundTrip.shr (x y : RegIdx) : RoundTrip.Statement (.shr x y) :=
  RoundTrip.of_row ⟨15, by decide⟩ (beq_iff_eq.mpr (and_F00F_xyn ..)) (by simp [opTable, opRowsLow, opRowsAlu, opRowsHigh, encode])

theorem RoundTrip.subn (x y : RegIdx) : RoundTrip.Statement (.subn x y) :=
  RoundTrip.of_row ⟨16, by decide⟩ (beq_iff_eq.mpr (and_F00F_xyn ..)) (by simp [opTable, opRowsLow, opRowsAlu, opRowsHigh, encode])

theorem RoundTrip.shl (x y : RegIdx) : RoundTrip.Statement (.shl x y) :=
  RoundTrip.of_row ⟨17, by decide⟩ (beq_iff_eq.mpr (and_F00F_xyn ..)) (by simp [opTable, opRowsLow, opRowsAlu, opRowsHigh, encode])

theorem RoundTrip.sneReg (x y : RegIdx) : RoundTrip.Statement (.sneReg x y) :=
  RoundTrip.of_row ⟨18, by decide⟩ (beq_iff_eq.mpr (and_F00F_xyn ..)) (by simp [opTable, opRowsLow, opRowsAlu, opRowsHigh, encode])

theorem RoundTrip.ldI (nnn : Addr) : RoundTrip.Statement (.ldI nnn) :=
  RoundTrip.of_row ⟨19, by decide⟩ (beq_iff_eq.mpr (and_F000_nnn ..)) (by simp [opTable, opRowsLow, opRowsAlu, opRowsHigh, encode])

theorem RoundTrip.rnd (x : RegIdx) (kk : Byte) : RoundTrip.Statement (.rnd x kk) :=
  RoundTrip.of_row ⟨20, by decide⟩ (beq_iff_eq.mpr (and_F000_xkk ..)) (by simp [opTable, opRowsLow, opRowsAlu, opRowsHigh, encode])

theorem RoundTrip.drw (x y : RegIdx) (n : Count) : RoundTrip.Statement (.drw x y n) :=
  RoundTrip.of_row ⟨21, by decide⟩ (beq_iff_eq.mpr (and_F000_xyn ..)) (by simp [opTable, opRowsLow, opRowsAlu, opRowsHigh, encode])

theorem RoundTrip.skp (x : RegIdx) : RoundTrip.Statement (.skp x) :=
  RoundTrip.of_row ⟨22, by decide⟩ (beq_iff_eq.mpr (and_F0FF_xkk ..)) (by simp [opTable, opRowsLow, opRowsAlu, opRowsHigh, encode])

theorem RoundTrip.sknp (x : RegIdx) : RoundTrip.Statement (.sknp x) :=
  RoundTrip.of_row ⟨23, by decide⟩ (beq_iff_eq.mpr (and_F0FF_xkk ..)) (by simp [opTable, opRowsLow, opRowsAlu, opRowsHigh, encode])

theorem RoundTrip.ldVxDt (x : RegIdx) : RoundTrip.Statement (.ldVxDt x) :=
  RoundTrip.of_row ⟨24, by decide⟩ (beq_iff_eq.mpr (and_F0FF_xkk ..)) (by simp [opTable, opRowsLow, opRowsAlu, opRowsHigh, encode])

theorem RoundTrip.ldVxK (x : RegIdx) : RoundTrip.Statement (.ldVxK x) :=
  RoundTrip.of_row ⟨25, by decide⟩ (beq_iff_eq.mpr (and_F0FF_xkk ..)) (by simp [opTable, opRowsLow, opRowsAlu, opRowsHigh, encode])

theorem RoundTrip.ldDtVx (x : RegIdx) : RoundTrip.Statement (.ldDtVx x) :=
  RoundTrip.of_row ⟨26, by decide⟩ (beq_iff_eq.mpr (and_F0FF_xkk ..)) (by simp [opTable, opRowsLow, opRowsAlu, opRowsHigh, encode])

theorem RoundTrip.ldStVx (x : RegIdx) : RoundTrip.Statement (.ldStVx x) :=
  RoundTrip.of_row ⟨27, by decide⟩ (beq_iff_eq.mpr (and_F0FF_xkk ..)) (by simp [opTable, opRowsLow, opRowsAlu, opRowsHigh, encode])

theorem RoundTrip.addI (x : RegIdx) : RoundTrip.Statement (.addI x) :=
  RoundTrip.of_row ⟨28, by decide⟩ (beq_iff_eq.mpr (and_F0FF_xkk ..)) (by simp [opTable, opRowsLow, opRowsAlu, opRowsHigh, encode])

theorem RoundTrip.ldF (x : RegIdx) : RoundTrip.Statement (.ldF x) :=
  RoundTrip.of_row ⟨29, by decide⟩ (beq_iff_eq.mpr (and_F0FF_xkk ..)) (by simp [opTable, opRowsLow, opRowsAlu, opRowsHigh, encode])

theorem RoundTrip.ldB (x : RegIdx) : RoundTrip.Statement (.ldB x) :=
  RoundTrip.of_row ⟨30, by decide⟩ (beq_iff_eq.mpr (and_F0FF_xkk ..)) (by simp [opTable, opRowsLow, opRowsAlu, opRowsHigh, encode])

theorem RoundTrip.ldMemVx (x : RegIdx) : RoundTrip.Statement (.ldMemVx x) :=
  RoundTrip.of_row ⟨31, by decide⟩ (beq_iff_eq.mpr (and_F0FF_xkk ..)) (by simp [opTable, opRowsLow, opRowsAlu, opRowsHigh, encode])

theorem RoundTrip.ldVxMem (x : RegIdx) : RoundTrip.Statement (.ldVxMem x) :=
  RoundTrip.of_row ⟨32, by decide⟩ (beq_iff_eq.mpr (and_F0FF_xkk ..)) (by simp [opTable, opRowsLow, opRowsAlu, opRowsHigh, encode])

end Sys2Proof.Laws
end

