-- ==== Sys2Proof/Laws/Step.lean ====
section
/-! SUPPORT. What a step can do, said once: by mode, by what the fetch and the decoder give; and what the await step and the end
of a tick leave unchanged. -/

namespace Sys2Proof.Machine

variable (s : State)

/-! ### Taking a fault -/

/-- Taking a fault records the code and the information, halts the core and changes nothing else (R181). -/
theorem State.faulted_takeFault (code : ErrCode) (info : Word) : Faulted s (s.takeFault code info) code info := by
  refine ⟨rfl, rfl, rfl, fun f hf => ?_⟩
  cases f <;> simp_all [Unchanged]

/-! ### The fetch -/

/-- A fetch in bounds gives the two bytes at `PC`, high byte first (R53). -/
theorem State.fetch_of_le (h : s.pc.toNat ≤ 0xFFE) :
    s.fetch = some (wordOfBytes (s.mem.read s.pc.toNat) (s.mem.read (s.pc.toNat + 1))) := by
  rw [State.fetch, if_neg (by omega)]

/-- A fetch out of bounds gives no word (R53, R183). -/
theorem State.fetch_eq_none_iff : s.fetch = none ↔ 0xFFE < s.pc.toNat := by
  unfold State.fetch
  split <;> simp [*]

/-- The fetch reads only `PC` and memory. -/
theorem State.fetch_congr {s t : State} (hpc : t.pc = s.pc) (hm : ∀ a, t.mem.read a = s.mem.read a) : t.fetch = s.fetch := by
  simp only [State.fetch, hpc, hm]

/-- The instruction of the next fetch comes from a fetched word the decoder reads. -/
theorem State.nextInstr_eq_some_iff (i : Instr) : s.nextInstr = some i ↔ ∃ w, s.fetch = some w ∧ decode w = some i := by
  simp [State.nextInstr, Option.bind_eq_some_iff]

/-- The next fetch's instruction depends only on `PC` and memory. -/
theorem State.nextInstr_congr {s t : State} (hpc : t.pc = s.pc) (hm : ∀ a, t.mem.read a = s.mem.read a) :
    t.nextInstr = s.nextInstr := by
  rw [State.nextInstr, State.nextInstr, State.fetch_congr hpc hm]

/-- Bits 15 to 8 of the word are the byte at the lower address (R53). -/
theorem high_wordOfBytes (hi lo : Byte) : (wordOfBytes hi lo).extractLsb' 8 8 = hi := by
  refine BitVec.eq_of_getLsbD_eq fun j hj => ?_
  simp only [wordOfBytes, BitVec.getLsbD_extractLsb', BitVec.getLsbD_append]
  simp [hj]

/-- Bits 7 to 0 of the word are the byte at the higher address (R53). -/
theorem low_wordOfBytes (hi lo : Byte) : (wordOfBytes hi lo).extractLsb' 0 8 = lo := by
  refine BitVec.eq_of_getLsbD_eq fun j hj => ?_
  simp only [wordOfBytes, BitVec.getLsbD_extractLsb', BitVec.getLsbD_append]
  simp [hj]

/-! ### One step, by mode -/

theorem step_of_halted (h : s.mode = .halted) : step s = .next s := by
  unfold step; rw [h]

theorem step_of_awaiting (h : s.mode = .awaitingKey) : step s = .next s.awaitStep.endTick := by
  unfold step; rw [h]

theorem step_of_fetch_none (h : s.mode = .running) (hf : s.fetch = none) :
    step s = .next (s.takeFault .fetchOutOfBounds s.pc) := by
  unfold step; rw [h, hf]

theorem step_of_illegal (h : s.mode = .running) {w : Word} (hf : s.fetch = some w) (hd : decode w = none) :
    step s = .next (s.takeFault .illegalInstruction w) := by
  unfold step; rw [h, hf]; simp only; rw [hd]

theorem step_of_decode (h : s.mode = .running) {w : Word} (hf : s.fetch = some w) {i : Instr} (hd : decode w = some i) :
    step s = endOfTick (exec i s) := by
  unfold step; rw [h, hf]; simp only; rw [hd]

theorem step_of_nextInstr (h : s.mode = .running) {i : Instr} (hi : s.nextInstr = some i) : step s = endOfTick (exec i s) := by
  obtain ⟨w, hf, hd⟩ := (s.nextInstr_eq_some_iff i).mp hi
  exact step_of_decode s h hf hd

/-- A run of one step more starts with that step, where it answers a next state. -/
theorem run_succ_of_next (M : Host.Core) (n : Nat) {a b : M.State} (h : M.step a = .next b) : M.run (n + 1) a = M.run n b := by
  rw [Host.Core.run, h]

/-- Everything a step that answers a next state can have done (R9). -/
theorem step_cases {s t : State} (h : step s = .next t) :
    (s.mode = .halted ∧ t = s) ∨
    (s.mode = .awaitingKey ∧ t = s.awaitStep.endTick) ∨
    (s.mode = .running ∧ s.fetch = none ∧ t = s.takeFault .fetchOutOfBounds s.pc) ∨
    (s.mode = .running ∧ ∃ w, s.fetch = some w ∧ decode w = none ∧ t = s.takeFault .illegalInstruction w) ∨
    (s.mode = .running ∧ ∃ w i u, s.fetch = some w ∧ decode w = some i ∧ exec i s = .next u ∧ t = u.endTick) := by
  cases hm : s.mode with
  | halted =>
    rw [step_of_halted s hm] at h
    cases h
    exact .inl ⟨rfl, rfl⟩
  | awaitingKey =>
    rw [step_of_awaiting s hm] at h
    cases h
    exact .inr (.inl ⟨rfl, rfl⟩)
  | running =>
    refine .inr (.inr ?_)
    cases hf : s.fetch with
    | none =>
      rw [step_of_fetch_none s hm hf] at h
      cases h
      exact .inl ⟨rfl, rfl, rfl⟩
    | some w =>
      refine .inr ?_
      cases hd : decode w with
      | none =>
        rw [step_of_illegal s hm hf hd] at h
        cases h
        exact .inl ⟨rfl, w, rfl, hd, rfl⟩
      | some i =>
        rw [step_of_decode s hm hf hd] at h
        cases he : exec i s with
        | next u =>
          rw [he] at h
          cases h
          exact .inr ⟨rfl, w, i, u, rfl, hd, he, rfl⟩
        | fault f => rw [he] at h; cases h
        | refused r => rw [he] at h; cases h

/-! ### The end of a tick -/

/-- One timer's countdown as a number: one less, staying at 0 (R160). -/
theorem toNat_countDown (b : Byte) : (countDown b).toNat = b.toNat - 1 := by
  revert b
  decide

theorem State.endTick_of_halted (h : s.mode = .halted) : s.endTick = s := by rw [State.endTick, if_pos h]

theorem State.endTick_of_not_halted (h : s.mode ≠ .halted) : s.endTick = s.countdown.dropInput := by
  rw [State.endTick, if_neg h]

@[simp] theorem State.endTick_v : s.endTick.v = s.v := by unfold State.endTick; split <;> rfl
@[simp] theorem State.endTick_i : s.endTick.i = s.i := by unfold State.endTick; split <;> rfl
@[simp] theorem State.endTick_pc : s.endTick.pc = s.pc := by unfold State.endTick; split <;> rfl
@[simp] theorem State.endTick_sp : s.endTick.sp = s.sp := by unfold State.endTick; split <;> rfl
@[simp] theorem State.endTick_stk : s.endTick.stk = s.stk := by unfold State.endTick; split <;> rfl
@[simp] theorem State.endTick_fb : s.endTick.fb = s.fb := by unfold State.endTick; split <;> rfl
@[simp] theorem State.endTick_mem : s.endTick.mem = s.mem := by unfold State.endTick; split <;> rfl
@[simp] theorem State.endTick_mode : s.endTick.mode = s.mode := by unfold State.endTick; split <;> rfl
@[simp] theorem State.endTick_waitx : s.endTick.waitx = s.waitx := by unfold State.endTick; split <;> rfl
@[simp] theorem State.endTick_err : s.endTick.err = s.err := by unfold State.endTick; split <;> rfl
@[simp] theorem State.endTick_errinfo : s.endTick.errinfo = s.errinfo := by unfold State.endTick; split <;> rfl
@[simp] theorem State.reg_endTick (r : RegIdx) : s.endTick.reg r = s.reg r := by unfold State.endTick; split <;> rfl

/-! ### The await step -/

theorem State.awaitStep_of_key {k : BitVec 4} (h : lowestKey s.keys = some k) :
    s.awaitStep = (s.resolveKey s.waitx k).setMode .running := by rw [State.awaitStep, h]

theorem State.awaitStep_of_no_key (h : s.keys = 0) : s.awaitStep = s := by
  rw [State.awaitStep, (lowestKey_eq_none_iff _).mpr h]

@[simp] theorem State.awaitStep_i : s.awaitStep.i = s.i := by unfold State.awaitStep; split <;> rfl
@[simp] theorem State.awaitStep_sp : s.awaitStep.sp = s.sp := by unfold State.awaitStep; split <;> rfl
@[simp] theorem State.awaitStep_stk : s.awaitStep.stk = s.stk := by unfold State.awaitStep; split <;> rfl
@[simp] theorem State.awaitStep_dt : s.awaitStep.dt = s.dt := by unfold State.awaitStep; split <;> rfl
@[simp] theorem State.awaitStep_st : s.awaitStep.st = s.st := by unfold State.awaitStep; split <;> rfl
@[simp] theorem State.awaitStep_fb : s.awaitStep.fb = s.fb := by unfold State.awaitStep; split <;> rfl
@[simp] theorem State.awaitStep_mem : s.awaitStep.mem = s.mem := by unfold State.awaitStep; split <;> rfl
@[simp] theorem State.awaitStep_waitx : s.awaitStep.waitx = s.waitx := by unfold State.awaitStep; split <;> rfl
@[simp] theorem State.awaitStep_err : s.awaitStep.err = s.err := by unfold State.awaitStep; split <;> rfl
@[simp] theorem State.awaitStep_errinfo : s.awaitStep.errinfo = s.errinfo := by unfold State.awaitStep; split <;> rfl
@[simp] theorem State.awaitStep_inputs : s.awaitStep.inputs = s.inputs := by unfold State.awaitStep; split <;> rfl
@[simp] theorem State.awaitStep_tickNo : s.awaitStep.tickNo = s.tickNo := by unfold State.awaitStep; split <;> rfl

/-- The mode after an await step: Running when a key was down, else still AwaitingKey as before (R153). -/
theorem State.awaitStep_mode : s.awaitStep.mode = .running ∨ s.awaitStep = s := by
  unfold State.awaitStep
  split
  · exact .inl rfl
  · exact .inr rfl

end Sys2Proof.Machine
end

