-- ==== Sys2Proof/Tests/Slice0.lean ====
section
/-! SUPPORT. The model's own tests. Every expected result is a worked example or vector of spec/95_test_vectors.md (its id is in
the comment) or a word written out from 30_encoding.md R74; one tick each, on the reset state with what the comment's vector names. -/

namespace Sys2Proof.Tests

open Sys2Proof.Machine

/-! ### Decoding: the words of R74, bit by bit -/

theorem test_decode_cls : decode 0b0000_0000_1110_0000 = some (.cls) := by decide
theorem test_decode_ret : decode 0b0000_0000_1110_1110 = some (.ret) := by decide
theorem test_decode_jp : decode 0b0001_1010_1011_1100 = some (.jp 0xABC) := by decide
theorem test_decode_call : decode 0b0010_0011_0000_0000 = some (.call 0x300) := by decide
theorem test_decode_seImm : decode 0b0011_0011_0100_0010 = some (.seImm 3 0x42) := by decide
theorem test_decode_sneImm : decode 0b0100_0011_0100_0011 = some (.sneImm 3 0x43) := by decide
theorem test_decode_seReg : decode 0b0101_0011_0100_0000 = some (.seReg 3 4) := by decide
theorem test_decode_ldImm : decode 0b0110_1010_0010_1111 = some (.ldImm 0xA 0x2F) := by decide
theorem test_decode_addImm : decode 0b0111_0001_0000_0101 = some (.addImm 1 0x05) := by decide
theorem test_decode_ldReg : decode 0b1000_0001_0010_0000 = some (.ldReg 1 2) := by decide
theorem test_decode_orReg : decode 0b1000_0001_0010_0001 = some (.orReg 1 2) := by decide
theorem test_decode_andReg : decode 0b1000_0001_0010_0010 = some (.andReg 1 2) := by decide
theorem test_decode_xorReg : decode 0b1000_0001_0010_0011 = some (.xorReg 1 2) := by decide
theorem test_decode_addReg : decode 0b1000_0001_0010_0100 = some (.addReg 1 2) := by decide
theorem test_decode_sub : decode 0b1000_0001_0010_0101 = some (.sub 1 2) := by decide
theorem test_decode_shr : decode 0b1000_0001_0010_0110 = some (.shr 1 2) := by decide
theorem test_decode_subn : decode 0b1000_0001_0010_0111 = some (.subn 1 2) := by decide
theorem test_decode_shl : decode 0b1000_0001_0010_1110 = some (.shl 1 2) := by decide
theorem test_decode_sneReg : decode 0b1001_0011_0100_0000 = some (.sneReg 3 4) := by decide
theorem test_decode_ldI : decode 0b1010_0011_0000_0000 = some (.ldI 0x300) := by decide
theorem test_decode_rnd : decode 0b1100_0011_0000_1111 = some (.rnd 3 0x0F) := by decide
theorem test_decode_drw : decode 0b1101_0000_0001_0101 = some (.drw 0 1 5) := by decide
theorem test_decode_skp : decode 0b1110_0101_1001_1110 = some (.skp 5) := by decide
theorem test_decode_sknp : decode 0b1110_0101_1010_0001 = some (.sknp 5) := by decide
theorem test_decode_ldVxDt : decode 0b1111_0010_0000_0111 = some (.ldVxDt 2) := by decide
theorem test_decode_ldVxK : decode 0b1111_0011_0000_1010 = some (.ldVxK 3) := by decide
theorem test_decode_ldDtVx : decode 0b1111_0010_0001_0101 = some (.ldDtVx 2) := by decide
theorem test_decode_ldStVx : decode 0b1111_0010_0001_1000 = some (.ldStVx 2) := by decide
theorem test_decode_addI : decode 0b1111_0010_0001_1110 = some (.addI 2) := by decide
theorem test_decode_ldF : decode 0b1111_0100_0010_1001 = some (.ldF 4) := by decide
theorem test_decode_ldB : decode 0b1111_0000_0011_0011 = some (.ldB 0) := by decide
theorem test_decode_ldMemVx : decode 0b1111_0010_0101_0101 = some (.ldMemVx 2) := by decide
theorem test_decode_ldVxMem : decode 0b1111_0010_0110_0101 = some (.ldVxMem 2) := by decide

/-- The decoder reads the byte at the lower address into bits 15 to 8, and leaves the bytes after the word (R53, R70). -/
theorem test_decode_bytes : decodeBytes [0x6A, 0x2F, 0x12] = .instr (.ldImm 0xA 0x2F) [0x12] := by decide

theorem test_decode_truncated : decodeBytes [0x6A] = .truncated := by decide

theorem test_decode_illegal : decodeBytes [0xB1, 0x23] = .illegal 0xB123 := by decide

theorem test_decodeTableWord : decodeTableWord 16 0xD015 = some (.drw 0 1 5) := by decide

/-! ### Well-formedness: one word of each row of R76's table of illegal words, and images the loader rejects (R213) -/

theorem test_illegal_class_0 : legalWord 0x00E1 = false ∧ decode 0x00E1 = none := by decide
theorem test_illegal_class_5 : legalWord 0x5121 = false ∧ decode 0x5121 = none := by decide
theorem test_illegal_class_8 : legalWord 0x8128 = false ∧ decode 0x8128 = none := by decide
theorem test_illegal_class_9 : legalWord 0x9121 = false ∧ decode 0x9121 = none := by decide
theorem test_illegal_class_B : legalWord 0xB123 = false ∧ decode 0xB123 = none := by decide
theorem test_illegal_class_E : legalWord 0xE19F = false ∧ decode 0xE19F = none := by decide
theorem test_illegal_class_F : legalWord 0xF175 = false ∧ decode 0xF175 = none := by decide
theorem test_illegal_zero : legalWord 0x0000 = false ∧ decode 0x0000 = none := by decide
theorem test_legal_word : legalWord 0x812E = true ∧ (decode 0x812E).isSome = true := by decide
theorem test_prog_empty : progOk [] = false := by decide
theorem test_prog_too_long : progOk (List.replicate 3585 0x00) = false := by
  rw [progOk, List.length_replicate]; rfl
theorem test_prog_longest : progOk (List.replicate 3584 0x00) = true := by
  rw [progOk, List.length_replicate]; rfl

/-! ### One tick -/

/-- The reset state with the given registers and this tick's inputs. -/
def start (regs : List (RegIdx × Byte)) (keys : BitVec 16) (rnd : Byte) : State :=
  { regs.foldl (fun s r => s.setReg r.1 r.2) State.reset with inputs := [⟨keys, rnd⟩] }

/-- What one tick of the state with the word at `PC` leaves, seen through `f`. -/
def tick (s : State) (w : Nat) (f : State → α) : Option α :=
  match step (s.withFetchWord 16 w) with
  | .next t => some (f t)
  | .fault _ => none
  | .refused _ => none

/-- Vector G1. -/
theorem test_cls_clears :
    tick ((fun s : State => s.setFb (flipPixel (flipPixel clearFb 0 0) 31 63)) (start [(15, 0x01)] 0 0)) 0x00E0 (fun t => (t.pc, t.reg vf, pixel t.fb 0 0, pixel t.fb 31 63)) =
      some (0x0202, 0x01, false, false) := by decide

/-- Vector R91 example, C8. -/
theorem test_ret_pops :
    tick ((State.reset.push 0x0204 (by decide))) 0x00EE (fun t => (t.pc, t.sp, t.stk[0])) =
      some (0x0204, 0, 0x0204) := by decide

/-- Vector C9. -/
theorem test_ret_underflow :
    tick (start [] 0 0) 0x00EE (fun t => (t.mode, t.err, t.errinfo, t.pc, t.sp)) =
      some (Mode.halted, ErrCode.stackUnderflow, 0x0000, 0x0200, 0) := by decide

/-- Vector C1. -/
theorem test_jp_sets_pc :
    tick (start [] 0 0) 0x1ABC (fun t => t.pc) =
      some (0x0ABC) := by decide

/-- Vector C5. -/
theorem test_call_pushes :
    tick (start [] 0 0) 0x2300 (fun t => (t.pc, t.sp, t.stk[0])) =
      some (0x0300, 1, 0x0202) := by decide

/-- Vector C7. -/
theorem test_call_overflow :
    tick ((fun s : State => s.setSp 16) (start [] 0 0)) 0x2300 (fun t => (t.mode, t.err, t.errinfo, t.pc, t.sp)) =
      some (Mode.halted, ErrCode.stackOverflow, 0x0300, 0x0200, 16) := by decide

/-- Vector S1. -/
theorem test_seImm_skips :
    tick (start [(3, 0x42)] 0 0) 0x3342 (fun t => t.pc) =
      some (0x0204) := by decide

/-- Vector S2. -/
theorem test_seImm_goes_on :
    tick (start [(3, 0x42)] 0 0) 0x3343 (fun t => t.pc) =
      some (0x0202) := by decide

/-- Vector S4. -/
theorem test_sneImm_goes_on :
    tick (start [(3, 0x42)] 0 0) 0x4342 (fun t => t.pc) =
      some (0x0202) := by decide

/-- Vector S5. -/
theorem test_sneImm_skips :
    tick (start [(3, 0x42)] 0 0) 0x4343 (fun t => t.pc) =
      some (0x0204) := by decide

/-- Vector S6. -/
theorem test_seReg_skips :
    tick (start [(3, 0x42), (4, 0x42)] 0 0) 0x5340 (fun t => t.pc) =
      some (0x0204) := by decide

/-- Vector S7. -/
theorem test_seReg_goes_on :
    tick (start [(3, 0x42), (4, 0x43)] 0 0) 0x5340 (fun t => t.pc) =
      some (0x0202) := by decide

/-- Vector S9. -/
theorem test_sneReg_goes_on :
    tick (start [(3, 0x42), (4, 0x42)] 0 0) 0x9340 (fun t => t.pc) =
      some (0x0202) := by decide

/-- Vector S10. -/
theorem test_sneReg_skips :
    tick (start [(3, 0x42), (4, 0x43)] 0 0) 0x9340 (fun t => t.pc) =
      some (0x0204) := by decide

/-- Vector A1. -/
theorem test_ldImm :
    tick (start [] 0 0) 0x6AFF (fun t => (t.pc, t.reg 0xA)) =
      some (0x0202, 0xFF) := by decide

/-- Vector A4. -/
theorem test_addImm_wraps_no_flag :
    tick (start [(10, 0x10), (15, 0x01)] 0 0) 0x7AF0 (fun t => (t.pc, t.reg 0xA, t.reg vf)) =
      some (0x0202, 0x00, 0x01) := by decide

/-- Vector A5. -/
theorem test_addImm_into_vf :
    tick (start [(15, 0x01)] 0 0) 0x7FFF (fun t => t.reg vf) =
      some (0x00) := by decide

/-- Vector A6. -/
theorem test_ldReg :
    tick (start [(1, 0x0F), (2, 0x35), (15, 0x01)] 0 0) 0x8120 (fun t => (t.pc, t.reg 1, t.reg vf)) =
      some (0x0202, 0x35, 0x01) := by decide

/-- Vector A7. -/
theorem test_orReg :
    tick (start [(1, 0x0F), (2, 0x35), (15, 0x01)] 0 0) 0x8121 (fun t => (t.pc, t.reg 1, t.reg vf)) =
      some (0x0202, 0x3F, 0x01) := by decide

/-- Vector A8. -/
theorem test_andReg :
    tick (start [(1, 0x0F), (2, 0x35), (15, 0x01)] 0 0) 0x8122 (fun t => (t.pc, t.reg 1, t.reg vf)) =
      some (0x0202, 0x05, 0x01) := by decide

/-- Vector A9. -/
theorem test_xorReg :
    tick (start [(1, 0x0F), (2, 0x35), (15, 0x01)] 0 0) 0x8123 (fun t => (t.pc, t.reg 1, t.reg vf)) =
      some (0x0202, 0x3A, 0x01) := by decide

/-- Vector A10. -/
theorem test_addReg_carries :
    tick (start [(1, 0xC8), (2, 0x64)] 0 0) 0x8124 (fun t => (t.reg 1, t.reg vf)) =
      some (0x2C, 0x01) := by decide

/-- Vector A14. -/
theorem test_addReg_flag_wins_in_vf :
    tick (start [(15, 0x90), (2, 0x90)] 0 0) 0x8F24 (fun t => t.reg vf) =
      some (0x01) := by decide

/-- Vector A16. -/
theorem test_sub_equal :
    tick (start [(1, 0x05), (2, 0x05)] 0 0) 0x8125 (fun t => (t.reg 1, t.reg vf)) =
      some (0x00, 0x01) := by decide

/-- Vector A17. -/
theorem test_sub_borrows :
    tick (start [(1, 0x03), (2, 0x05)] 0 0) 0x8125 (fun t => (t.reg 1, t.reg vf)) =
      some (0xFE, 0x00) := by decide

/-- Vector A23. -/
theorem test_shr_ignores_vy :
    tick (start [(1, 0x05), (2, 0xF0)] 0 0) 0x8126 (fun t => (t.reg 1, t.reg vf)) =
      some (0x02, 0x01) := by decide

/-- Vector A27. -/
theorem test_shr_of_vf :
    tick (start [(15, 0x02)] 0 0) 0x8F06 (fun t => t.reg vf) =
      some (0x00) := by decide

/-- Vector A20. -/
theorem test_subn :
    tick (start [(1, 0x03), (2, 0x05)] 0 0) 0x8127 (fun t => (t.reg 1, t.reg vf)) =
      some (0x02, 0x01) := by decide

/-- Vector A21. -/
theorem test_subn_borrows :
    tick (start [(1, 0x05), (2, 0x03), (15, 0x01)] 0 0) 0x8127 (fun t => (t.reg 1, t.reg vf)) =
      some (0xFE, 0x00) := by decide

/-- Vector A28. -/
theorem test_shl_ignores_vy :
    tick (start [(1, 0x81), (2, 0x0F)] 0 0) 0x812E (fun t => (t.reg 1, t.reg vf)) =
      some (0x02, 0x01) := by decide

/-- Vector A29. -/
theorem test_shl_no_carry :
    tick (start [(1, 0x7F), (15, 0x01)] 0 0) 0x812E (fun t => (t.reg 1, t.reg vf)) =
      some (0xFE, 0x00) := by decide

/-- Vector X1. -/
theorem test_ldI :
    tick (start [] 0 0) 0xAFFF (fun t => (t.pc, t.i)) =
      some (0x0202, 0x0FFF) := by decide

/-- Vector X3. -/
theorem test_rnd_masks :
    tick (start [] 0 0xAB) 0xC30F (fun t => (t.pc, t.reg 3)) =
      some (0x0202, 0x0B) := by decide

/-- Vector X6. -/
theorem test_addI_above_memory :
    tick ((fun s : State => s.setI 0x0FFF) (start [(1, 0x01)] 0 0)) 0xF11E (fun t => (t.pc, t.i, t.mode)) =
      some (0x0202, 0x1000, Mode.running) := by decide

/-- Vector X7. -/
theorem test_addI_wraps_no_flag :
    tick ((fun s : State => s.setI 0xFFFF) (start [(1, 0x02), (15, 0x01)] 0 0)) 0xF11E (fun t => (t.i, t.reg vf)) =
      some (0x0001, 0x01) := by decide

/-- Vector X8. -/
theorem test_ldF_glyph_a :
    tick (start [(0, 0x0A)] 0 0) 0xF029 (fun t => t.i) =
      some (0x0032) := by decide

/-- Vector X9. -/
theorem test_ldF_no_mask :
    tick (start [(0, 0xFF)] 0 0) 0xF029 (fun t => t.i) =
      some (0x04FB) := by decide

/-- Vector G5: column 63, then columns 0 to 6. -/
theorem test_drw_wraps_columns :
    tick ((fun s : State => (s.setMem (s.mem.write 0x300 0xFF)).setI 0x0300) (start [(0, 0x3F)] 0 0)) 0xD011 (fun t => (t.pc, t.reg vf, t.fb[0], t.fb[1])) =
      some (0x0202, 0x00, 0x800000000000007F, 0) := by decide

/-- Vector G12. -/
theorem test_drw_faults_whole :
    tick ((fun s : State => (s.setMem (s.mem.load 0xFFE [0x80, 0x80])).setI 0x0FFE) (start [] 0 0)) 0xD013 (fun t => (t.mode, t.err, t.errinfo, t.fb[0], t.pc)) =
      some (Mode.halted, ErrCode.dataAddressOutOfBounds, 0x1000, 0, 0x0200) := by decide

/-- Vector Y1. -/
theorem test_skp_down :
    tick (start [(5, 0x0A)] 0x0400 0) 0xE59E (fun t => t.pc) =
      some (0x0204) := by decide

/-- Vector Y5. -/
theorem test_skp_no_such_key :
    tick (start [(5, 0x10)] 0xFFFF 0) 0xE59E (fun t => (t.mode, t.err, t.errinfo, t.pc)) =
      some (Mode.halted, ErrCode.keyIndexOutOfRange, 0x0010, 0x0200) := by decide

/-- Vector Y3. -/
theorem test_sknp_down :
    tick (start [(5, 0x0A)] 0x0400 0) 0xE5A1 (fun t => t.pc) =
      some (0x0202) := by decide

/-- Vector Y4. -/
theorem test_sknp_up :
    tick (start [(5, 0x0A)] 0 0) 0xE5A1 (fun t => t.pc) =
      some (0x0204) := by decide

/-- Vector K5. -/
theorem test_ldVxDt_before_decrement :
    tick ((fun s : State => (s.setDt 0x0A).setSt 0x01) (start [] 0 0)) 0xF407 (fun t => (t.reg 4, t.dt, t.st)) =
      some (0x0A, 0x09, 0x00) := by decide

/-- Vector Y7. -/
theorem test_ldVxK_waits :
    tick ((fun s : State => s.setDt 0x09) (start [(3, 0x77)] 0 0)) 0xF30A (fun t => (t.pc, t.mode, t.waitx, t.reg 3, t.dt)) =
      some (0x0200, Mode.awaitingKey, 3, 0x77, 0x08) := by decide

/-- Vector Y8. -/
theorem test_ldVxK_lowest :
    tick ((fun s : State => s.setDt 0x09) (start [(3, 0x77)] 0x0108 0)) 0xF30A (fun t => (t.pc, t.mode, t.reg 3, t.dt)) =
      some (0x0202, Mode.running, 0x03, 0x08) := by decide

/-- Vector K1. -/
theorem test_ldDtVx_decremented :
    tick (start [(2, 0x05)] 0 0) 0xF215 (fun t => (t.pc, t.dt)) =
      some (0x0202, 0x04) := by decide

/-- Vector K4. -/
theorem test_ldDtVx_zero :
    tick ((fun s : State => s.setDt 0x09) (start [] 0 0)) 0xF215 (fun t => t.dt) =
      some (0x00) := by decide

/-- Vector K2. -/
theorem test_ldStVx_decremented :
    tick (start [(2, 0x05)] 0 0) 0xF218 (fun t => (t.pc, t.st)) =
      some (0x0202, 0x04) := by decide

/-- Vector M1. -/
theorem test_ldB_digits :
    tick ((fun s : State => s.setI 0x0300) (start [(0, 0x9D)] 0 0)) 0xF033 (fun t => (t.pc, t.mem.read 0x300, t.mem.read 0x301, t.mem.read 0x302)) =
      some (0x0202, 0x01, 0x05, 0x07) := by decide

/-- Vector M5. -/
theorem test_ldB_faults_whole :
    tick ((fun s : State => s.setI 0x0FFE) (start [(0, 0x64)] 0 0)) 0xF033 (fun t => (t.err, t.errinfo, t.mem.read 0xFFE)) =
      some (ErrCode.dataAddressOutOfBounds, 0x1000, 0x00) := by decide

/-- Vector M7. -/
theorem test_ldMemVx_stores_through_x :
    tick ((fun s : State => s.setI 0x0300) (start [(0, 0x11), (1, 0x22), (2, 0x33), (3, 0x44)] 0 0)) 0xF255 (fun t => (t.i, t.mem.read 0x300, t.mem.read 0x301, t.mem.read 0x302, t.mem.read 0x303)) =
      some (0x0300, 0x11, 0x22, 0x33, 0x00) := by decide

/-- Vector M17; the second byte is the default font's. -/
theorem test_ldMemVx_into_font :
    tick (start [(0, 0xAA)] 0 0) 0xF055 (fun t => (t.mem.read 0x000, t.mem.read 0x001)) =
      some (0xAA, 0x90) := by decide

/-- Vector M12. -/
theorem test_ldVxMem_loads_through_x :
    tick ((fun s : State => (s.setMem (s.mem.load 0x300 [0x10, 0x11, 0x12, 0x13])).setI 0x0300) (start [(3, 0x99)] 0 0)) 0xF265 (fun t => (t.reg 0, t.reg 1, t.reg 2, t.reg 3, t.i)) =
      some (0x10, 0x11, 0x12, 0x99, 0x0300) := by decide

/-- Vector M14. -/
theorem test_ldVxMem_faults_whole :
    tick ((fun s : State => (s.setMem (s.mem.write 0xFFF 0x7E)).setI 0x0FFF) (start [(0, 0x55), (1, 0x66)] 0 0)) 0xF165 (fun t => (t.err, t.errinfo, t.reg 0)) =
      some (ErrCode.dataAddressOutOfBounds, 0x1000, 0x55) := by decide

/-- Vector F19. -/
theorem test_illegal_word :
    tick ((fun s : State => s.setDt 0x05) (start [] 0 0)) 0xB000 (fun t => (t.mode, t.err, t.errinfo, t.pc, t.dt)) =
      some (Mode.halted, ErrCode.illegalInstruction, 0xB000, 0x0200, 0x05) := by decide

/-- Vector F1: the last address at which a fetch succeeds. -/
theorem test_fetch_last : tick ((start [] 0 0).setPc 0x0FFE) 0x6A55 (fun t => (t.pc, t.reg 0xA)) = some (0x1000, 0x55) := by
  decide

/-- Vector F3: the second byte would be outside memory. -/
theorem test_fetch_out_of_bounds :
    (match step ((start [] 0 0).setPc 0x0FFF) with
      | .next t => some (t.mode, t.err, t.errinfo, t.pc)
      | .fault _ => none
      | .refused _ => none) = some (Mode.halted, ErrCode.fetchOutOfBounds, 0x0FFF, 0x0FFF) := by decide

/-- Vector Y11: the await step with key F down. -/
theorem test_await_step :
    (match step { start [] 0x8000 0 with mode := .awaitingKey, waitx := 3 } with
      | .next t => some (t.mode, t.pc, t.reg 3)
      | .fault _ => none
      | .refused _ => none) = some (Mode.running, 0x0202, 0x0F) := by decide

/-- Vector F5: from reset with no program, the first word is 0x0000, which is illegal. -/
theorem test_reset_step :
    step State.reset = .next (State.reset.takeFault .illegalInstruction 0x0000) := by
  rw [step_of_illegal (w := 0x0000) _ rfl (by decide) (by decide)]

/-! ### Witnesses: for each statement with hypotheses, states and operands that meet all of them together, clause by clause -/

/-- Running, with the word where the next tick fetches it. -/
def running (w : Nat) : State := (start [] 0 0).withFetchWord 16 w

theorem witness_EncodeOfDecodeIsIdentity : decode 0xD015 = some (.drw 0 1 5) := by decide

theorem witness_StepRunsDecodedInstruction :
    let s := ((start [] 0 0).setPc 0x0FFE).withFetchWord 16 0x6A55
    s.mode = .running ∧ s.pc.toNat ≤ 0xFFE ∧
      decode (s.mem.read s.pc.toNat ++ s.mem.read (s.pc.toNat + 1)) = some (.ldImm 0xA 0x55) := by decide

theorem witness_FetchReadsTwoBytesOrHalts :
    (State.reset.setPc 0x0FFE).pc.toNat ≤ 0xFFE ∧ 0xFFE < (State.reset.setPc 0x0FFF).pc.toNat ∧
      (State.reset.setPc 0x0FFF).mode = .running := by decide

theorem witness_IllegalWordHalts :
    (running 0xB123).mode = .running ∧ (running 0xB123).fetch = some 0xB123 ∧ legalWord 0xB123 = false := by decide

theorem witness_HaltedTickChangesNothing : (State.reset.takeFault .stackUnderflow 0x0000).mode = .halted := by decide

/-- Waiting for a key with V3 as the destination. -/
def waiting (keys : BitVec 16) : State := { (start [] keys 0).withFetchWord 16 0xF30A with mode := .awaitingKey, waitx := 3 }

/-- No key, the highest key alone, and the lowest key among others. -/
theorem witness_AwaitTickWaitsOrResolves :
    (waiting 0).mode = .awaitingKey ∧ (waiting 0).keys = 0 ∧
      (waiting 0x8000).keys.getLsbD (15#4).toNat = true ∧ (∀ j, j < (15#4).toNat → (waiting 0x8000).keys.getLsbD j = false) ∧
      (waiting 0x0011).keys.getLsbD (0#4).toNat = true ∧ (∀ j, j < (0#4).toNat → (waiting 0x0011).keys.getLsbD j = false) := by
  decide

/-- A tick that executes, one that waits, and one that halts. -/
theorem witness_TimersCountDownOncePerTick :
    (running 0x6A55).mode = .running ∧ (running 0x6A55).nextInstr = some (.ldImm 0xA 0x55) ∧
      exec (.ldImm 0xA 0x55) (running 0x6A55) = .next ((running 0x6A55).setReg 0xA 0x55).advance ∧
      ((running 0x6A55).setReg 0xA 0x55).advance.mode ≠ .halted ∧
      step (waiting 0) = .next (waiting 0).awaitStep.endTick ∧
      step State.reset = .next (State.reset.takeFault .illegalInstruction 0x0000) ∧
      (State.reset.takeFault .illegalInstruction 0x0000).mode = .halted :=
  ⟨by decide, by decide, rfl, by decide, rfl, test_reset_step, rfl⟩

theorem witness_FaultsArePrecise :
    step State.reset = .next (State.reset.takeFault .illegalInstruction 0x0000) ∧ State.reset.mode ≠ .halted ∧
      (State.reset.takeFault .illegalInstruction 0x0000).mode = .halted := ⟨test_reset_step, by decide, rfl⟩

/-- One state for each row of R180, at the boundary of its condition. -/
theorem witness_FaultsAreExactlyThoseOfTheTable :
    (start [] 0 0).SpBounded ∧ (State.reset.setPc 0x0FFF).FaultDue .fetchOutOfBounds 0x0FFF ∧
      State.reset.FaultDue .illegalInstruction 0x0000 ∧ ((running 0x2300).setSp 16).FaultDue .stackOverflow 0x0300 ∧
      (running 0x00EE).FaultDue .stackUnderflow 0x0000 ∧
      ((running 0xF033).setI 0x0FFE).FaultDue .dataAddressOutOfBounds 0x1000 ∧
      ((running 0xE59E).setReg 5 0x10).FaultDue .keyIndexOutOfRange 0x0010 := by
  refine ⟨by unfold State.SpBounded; decide, ⟨by decide, rfl⟩, ⟨by decide, by decide⟩, ⟨by decide, 0x300, by decide, by decide⟩,
    ⟨by decide, by decide, rfl⟩, ⟨.ldB 0, by decide, by decide, by decide, by decide⟩, ⟨5, .inl (by decide), by decide, by decide⟩⟩

theorem witness_AtMostOneFaultIsDue : (running 0x00EE).FaultDue .stackUnderflow 0x0000 :=
  ⟨by decide, by decide, rfl⟩

/-- Running at `Fx0A` with no key, waiting with no key and with one, and halted. -/
theorem witness_ModeTransitionsAreThoseListed :
    (running 0xF30A).mode = .running ∧ (running 0xF30A).keys = 0 ∧ (running 0xF30A).nextInstr = some (.ldVxK 3) ∧
      (waiting 0).mode = .awaitingKey ∧ (waiting 0).keys = 0 ∧ (waiting 0x8000).mode = .awaitingKey ∧ (waiting 0x8000).keys ≠ 0 ∧
      step (State.reset.takeFault .stackUnderflow 0x0000) = .next (State.reset.takeFault .stackUnderflow 0x0000) := by
  refine ⟨by decide, by decide, by decide, by decide, by decide, by decide, by decide, step_of_halted _ rfl⟩

/-- The shortest image the loader accepts; `test_prog_longest` is the longest. -/
theorem witness_ResetStateIsAsListed : progOk [0x12] = true := by decide

theorem witness_EveryStartSatisfiesInvariants : progOk [0x12, 0x00] = true := by decide

/-- The bounds of the invariants: a full stack and the largest PC a run can reach. -/
theorem witness_StepKeepsInvariants :
    let s := ((start [] 0 0).setSp 16).setPc 0x1002
    s.Inv ∧ step s = .next (s.takeFault .fetchOutOfBounds 0x1002) := by
  refine ⟨⟨rfl, by unfold State.SpBounded; decide, fun k => by simp [start, State.reset], by decide, by decide, fun _ => rfl, by decide⟩, ?_⟩
  rw [step_of_fetch_none _ (by decide) (by decide)]
  rfl

/-- A running state, and a halted one whose fault is true. -/
theorem witness_StepKeepsHaltTruth :
    (start [] 0 0).HaltTruth ∧ ((start [] 0 0).takeFault .illegalInstruction 0x0000).HaltTruth ∧
      step ((start [] 0 0).takeFault .illegalInstruction 0x0000) =
        .next ((start [] 0 0).takeFault .illegalInstruction 0x0000) := by
  refine ⟨.inl rfl, .inr ⟨by decide, by decide⟩, step_of_halted _ rfl⟩

theorem witness_StepNeverStops : ((start [] 0 0).setSp 16).SpBounded := by unfold State.SpBounded; decide

theorem witness_RunsNeverLeaveTheInvariants :
    Reachable ((State.resetWith Config.font [0x12, 0x00]).withInputs [⟨0x8000, 0xAB⟩]) := .start _ _ _ (by decide)

theorem witness_InstructionsWriteOnlyWhatTheirRulesName :
    exec (.drw 0 1 5) State.reset = .next (State.reset.drawn 0 1 5) ∧ Field.mem ∉ writesField (.drw 0 1 5) ∧
      writesReg (.drw 0 1 5) 0xE = false ∧ storesAt (.drw 0 1 5) State.reset 0x300 = false := ⟨rfl, by decide, by decide, rfl⟩

/-- The glyph 0 drawn from reset changes the top left pixel. -/
theorem witness_OnlyClearAndDrawChangePixels :
    (match step (running 0xD015) with
      | .next t => pixel t.fb 0 0 != pixel (running 0xD015).fb 0 0
      | .fault _ => false
      | .refused _ => false) = true := by decide

/-- The last byte of memory, stored by `Fx33` and by `Fx55`. -/
theorem witness_OnlyStoresChangeMemory :
    (match step (((start [(0, 0x09)] 0 0).setI 0x0FFD).withFetchWord 16 0xF033) with
      | .next t => t.mem.read 0xFFF != 0x00
      | .fault _ => false
      | .refused _ => false) = true ∧
    (match step (((start [(0, 0x09)] 0 0).setI 0x0FFF).withFetchWord 16 0xF055) with
      | .next t => t.mem.read 0xFFF != 0x00
      | .fault _ => false
      | .refused _ => false) = true := by decide

/-- A tick that reads neither input, under two hosts that agree on nothing; and one that reads KEYS, under two that agree on it. -/
theorem witness_InputsMatterOnlyWhereRead :
    (¬ (running 0x6A55).readsKeys ∧ ¬ (running 0x6A55).readsRnd) ∧
      ((running 0xE59E).withInputs [⟨0x8000, 0x00⟩]).keys = ((running 0xE59E).withInputs [⟨0x8000, 0xFF⟩]).keys ∧
      ¬ (running 0xE59E).readsRnd := by
  have h1 : (running 0x6A55).nextInstr = some (.ldImm 0xA 0x55) := by decide
  have h2 : (running 0xE59E).nextInstr = some (.skp 5) := by decide
  have h3 : (running 0x6A55).mode = .running := by decide
  refine ⟨⟨?_, ?_⟩, rfl, ?_⟩ <;> simp [State.readsKeys, State.readsRnd, h1, h2, h3]

theorem witness_SelfJumpOnlyCountsTimers : (running 0x1200).AtEnd := ⟨by decide, by decide, 0x200, by decide, by decide⟩

/-- Empty, one entry and full. -/
theorem witness_ReturnPopsTheStack :
    State.reset.sp = 0 ∧ (State.reset.setSp 1).sp.toNat = (0 : Fin 16).val + 1 ∧
      (State.reset.setSp 16).sp.toNat = (15 : Fin 16).val + 1 := by decide

theorem witness_CallPushesTheReturnAddress :
    State.reset.sp.toNat = (0 : Fin 16).val ∧ (State.reset.setSp 15).sp.toNat = (15 : Fin 16).val ∧
      (State.reset.setSp 16).sp = 16 := by decide

theorem witness_StackPointerAboveSixteenStops : 16 < (State.reset.setSp 17).sp.toNat ∧ 16 < (State.reset.setSp 31).sp.toNat := by
  decide

theorem witness_CallThenReturnComesBack : (State.reset.setSp 15).sp.toNat < 16 := by decide

/-- A sprite whose last byte is at 0x1000, no sprite row, and a sprite that ends at the last byte of memory. -/
theorem witness_DrawXorsTheSprite :
    (1 ≤ (15 : Count).toNat ∧ 0xFFF < (State.reset.setI 0x0FF2).i.toNat + (15 : Count).toNat - 1) ∧
    ((0 : Count) = 0 ∨ (State.reset.setI 0xFFFF).i.toNat + (0 : Count).toNat - 1 ≤ 0xFFF) ∧
      ((15 : Count) = 0 ∨ (State.reset.setI 0x0FF1).i.toNat + (15 : Count).toNat - 1 ≤ 0xFFF) := by decide

/-- One sprite bit of 1 on a set pixel (the collision clause), and none on a cleared screen (the other). -/
theorem witness_DrawXorsTheSprite_collision :
    (State.reset.mem.read 0).getLsbD 7 = true ∧ pixel (flipPixel clearFb 0 0) 0 0 = true ∧ pixel clearFb 0 0 = false := by decide

theorem witness_ClearThenDrawShowsTheSprite :
    (15 : Count) = 0 ∨ (State.reset.setI 0x0FF1).i.toNat + (15 : Count).toNat - 1 ≤ 0xFFF := by decide

theorem witness_DrawTwiceRestoresTheScreen :
    (0 : RegIdx) ≠ 0xF ∧ (0xE : RegIdx) ≠ 0xF ∧ ((1 : Count) = 0 ∨ State.reset.i.toNat + (1 : Count).toNat - 1 ≤ 0xFFF) := by decide

/-- The screen with exactly the top row of glyph 0 set: every sprite bit of 1 meets a set pixel. All hypotheses of the statement
hold of it, and its conclusion does not: the second draw finds nothing set. -/
theorem witness_SecondDrawAlwaysCollides :
    let s := State.reset.setFb (flipPixel (flipPixel (flipPixel (flipPixel clearFb 0 0) 0 1) 0 2) 0 3)
    exec (.drw 0 0 1) s = .next (s.drawn 0 0 1) ∧ exec (.drw 0 0 1) (s.drawn 0 0 1) = .next ((s.drawn 0 0 1).drawn 0 0 1) ∧
      ((s.drawn 0 0 1).drawn 0 0 1).mode = .running ∧ (s.mem.read s.i.toNat).getLsbD 7 = true ∧
      ((s.drawn 0 0 1).drawn 0 0 1).reg 0xF = 0x00 := ⟨rfl, rfl, rfl, by decide, by decide⟩

/-- Each form with its last byte at 0x1000, the first address outside memory. -/
theorem witness_DataRangeOutsideMemoryHalts :
    ((State.reset.setI 0x1000).i.toNat + (1 : Count).toNat - 1 > 0xFFF ∧ 1 ≤ (1 : Count).toNat) ∧
      (State.reset.setI 0x0FFE).i.toNat + 3 - 1 > 0xFFF ∧
      (State.reset.setI 0x0FFF).i.toNat + ((1 : RegIdx).toNat + 1) - 1 > 0xFFF := by decide

/-- The last key, and the first number that names none. -/
theorem witness_KeySkips :
    ((start [(5, 0x0F)] 0 0).reg 5).toNat ≤ 15 ∧ 15 < ((start [(5, 0x10)] 0 0).reg 5).toNat := by decide

theorem witness_AwaitKeyResolvesOrWaits :
    (start [] 0 0).keys = 0 ∧
      (start [] 0x8000 0).keys.getLsbD (15#4).toNat = true ∧ (∀ j, j < (15#4).toNat → (start [] 0x8000 0).keys.getLsbD j = false) ∧
      (start [] 0x0001 0).keys.getLsbD (0#4).toNat = true := by decide

theorem witness_WrittenTimerIsDecrementedInItsTick :
    (running 0xF215).mode = .running ∧ (running 0xF215).nextInstr = some (.ldDtVx 2) ∧
      (running 0xF218).nextInstr = some (.ldStVx 2) := by decide

theorem witness_BcdSplitStoresThreeDigits :
    0xFFF < (State.reset.setI 0x0FFE).i.toNat + 2 ∧ (State.reset.setI 0x0FFD).i.toNat + 2 ≤ 0xFFF := by decide

theorem witness_StoreRegistersWritesTheRange :
    0xFFF < (State.reset.setI 0x0FF1).i.toNat + (0xF : RegIdx).toNat ∧ (State.reset.setI 0x0FF0).i.toNat + (0xF : RegIdx).toNat ≤ 0xFFF := by decide

theorem witness_LoadRegistersReadsTheRange :
    0xFFF < (State.reset.setI 0x1000).i.toNat + (0x0 : RegIdx).toNat ∧ (State.reset.setI 0x0FF0).i.toNat + (0xF : RegIdx).toNat ≤ 0xFFF := by decide

/-- The two bytes after the `F155` at 0x200, stored by it: V0 is the next word's high byte, V1 its low byte. -/
theorem witness_StoredBytesAreFetchedNext :
    let s := ((start [] 0 0).setI 0x0202).withFetchWord 16 0xF155
    let t := (s.setMem (s.mem.load 0x0202 (s.regsUpTo 1))).advance.endTick
    s.mode = .running ∧ s.nextInstr = some (.ldMemVx 1) ∧ s.i.toNat + (1 : RegIdx).toNat ≤ 0xFFF ∧ step s = .next t ∧
      t.pc.toNat ≤ 0xFFE ∧ t.pc.toNat = s.i.toNat + (0 : RegIdx).toNat ∧ t.pc.toNat + 1 = s.i.toNat + (1 : RegIdx).toNat := by
  refine ⟨by decide, by decide, by decide, ?_, by decide, by decide, by decide⟩
  rw [step_of_nextInstr _ (by decide) (i := .ldMemVx 1) (by decide)]
  rfl

/-- An `F033` at 0x200 with the given I; the next fetch reads 0x202 and 0x203. -/
def storingDigits (i : Word) : State := ((start [(0, 0x9D)] 0 0).setI i).withFetchWord 16 0xF033

/-- I = 0x200, 0x201, 0x202 and 0x203: between them the next fetch finds each of the three digits in its high byte (stored at I + 2,
I + 1 and I) and in its low byte (at I + 2, I + 1 and I). -/
theorem witness_StoredBytesAreFetchedNext_digits :
    ∀ i ∈ [0x0200#16, 0x0201#16, 0x0202#16, 0x0203#16],
      (storingDigits i).mode = .running ∧ (storingDigits i).nextInstr = some (.ldB 0) ∧ (storingDigits i).i.toNat + 2 ≤ 0xFFF ∧
        step (storingDigits i) = .next ((storingDigits i).bcdStored 0).endTick ∧
        ((storingDigits i).bcdStored 0).endTick.pc.toNat = 0x202 := by
  intro i hi
  have h : (storingDigits i).mode = .running ∧ (storingDigits i).nextInstr = some (.ldB 0) ∧ (storingDigits i).i.toNat + 2 ≤ 0xFFF ∧
      ((storingDigits i).bcdStored 0).endTick.pc.toNat = 0x202 := by
    simp only [List.mem_cons, List.not_mem_nil, or_false] at hi
    rcases hi with rfl | rfl | rfl | rfl <;> decide
  refine ⟨h.1, h.2.1, h.2.2.1, ?_, h.2.2.2⟩
  rw [step_of_nextInstr _ h.1 h.2.1]
  show endOfTick ((storingDigits i).dataAccess 3 _) = _
  rw [State.dataAccess_of_inBounds _ _ (.inr (by omega))]
  rfl

end Sys2Proof.Tests
end

section
/-! PROOF. The statements of 00_scope.md: the order of a tick (R9) and the output ports (R11). -/

namespace Sys2Proof.Machine

/-! ### The tick (R9) -/

/-- Settles O6: the fetch gives the two bytes at PC, and the step is the decoded instruction and then the end of the tick. -/
theorem stepRunsDecodedInstruction : Obligations.StepRunsDecodedInstruction := by
  intro s i hmode hpc hdecode
  have hstep : step s = endOfTick (exec i s) := step_of_decode s hmode (s.fetch_of_le hpc) hdecode
  rw [hstep]
  cases exec i s with
  | next t => rfl
  | fault f => rfl
  | refused r => rfl

/-! ### The numbers of MODE and ERR (R11, R34, R180) -/

/-- The number on the `MODE` port tells the mode. -/
theorem Mode.toBits_inj {a b : Mode} : a.toBits = b.toBits ↔ a = b := by
  cases a <;> cases b <;> decide

/-- `MODE` has three legal values: the fourth 2-bit number is never on the port (R34). -/
theorem Mode.toBits_ne_three (a : Mode) : a.toBits ≠ 3 := by
  cases a <;> decide

/-- The number on the `ERR` port tells the fault. -/
theorem ErrCode.toBits_inj {a b : ErrCode} : a.toBits = b.toBits ↔ a = b := by
  cases a <;> cases b <;> decide

/-- The codes of R180 end at 6: the eighth 3-bit number is never on the port. -/
theorem ErrCode.toBits_ne_seven (a : ErrCode) : a.toBits ≠ 7 := by
  cases a <;> decide

/-! ### The `FB` output (R11, R31) -/

/-- A bit of the `FB` output is the pixel whose row and column are its number divided by 64 and the remainder. -/
theorem State.getLsbD_outFb (s : State) (k : Fin 2048) :
    s.outFb.getLsbD k.val = pixel s.fb ⟨k.val / 64, by omega⟩ ⟨k.val % 64, by omega⟩ := by
  rw [State.outFb, BitVec.getLsbD_ofFnLE, dif_pos k.isLt]

/-- The `FB` output is row-major with 64 pixels a row. -/
theorem State.getLsbD_outFb_rowMajor (s : State) (r : Fin 32) (c : Fin 64) :
    s.outFb.getLsbD (r.val * 64 + c.val) = pixel s.fb r c := by
  have hrow : (r.val * 64 + c.val) / 64 = r.val := by omega
  have hcol : (r.val * 64 + c.val) % 64 = c.val := by omega
  have hbit := s.getLsbD_outFb ⟨r.val * 64 + c.val, by omega⟩
  simpa only [hrow, hcol] using hbit

/-- Settles O29: the `FB` output is row-major, the numbers of MODE and ERR tell the named values apart, and the other three ports
are the registers themselves. -/
theorem portsShowTheState : Obligations.PortsShowTheState := fun s =>
  ⟨s.getLsbD_outFb_rowMajor,
    Mode.toBits_inj (b := .running), Mode.toBits_inj (b := .awaitingKey), Mode.toBits_inj (b := .halted),
    ErrCode.toBits_inj (b := .none), ErrCode.toBits_inj (b := .fetchOutOfBounds),
    ErrCode.toBits_inj (b := .illegalInstruction), ErrCode.toBits_inj (b := .stackOverflow),
    ErrCode.toBits_inj (b := .stackUnderflow), ErrCode.toBits_inj (b := .dataAddressOutOfBounds),
    ErrCode.toBits_inj (b := .keyIndexOutOfRange),
    s.mode.toBits_ne_three, s.err.toBits_ne_seven, rfl, rfl, rfl⟩

end Sys2Proof.Machine
end

section
/-! PROOF. A law of the decoder that the fault record of 10_state.md needs: a word it rejects is illegal (30_encoding.md R76). -/

namespace Sys2Proof

/-! ### A legal word hits a row of the opcode map -/

/-- The mask 0xF000 picks out the class nibble. -/
theorem and_F000 (w : Word) : w &&& 0xF000 = w.extractLsb' 12 4 ++ 0x0#4 ++ 0x0#4 ++ 0x0#4 := by
  conv_lhs => rw [word_nibbles w, and_F000_xyn]

/-- The mask 0xF00F picks out the class nibble and the last nibble. -/
theorem and_F00F (w : Word) : w &&& 0xF00F = w.extractLsb' 12 4 ++ 0x0#4 ++ 0x0#4 ++ w.extractLsb' 0 4 := by
  conv_lhs => rw [word_nibbles w, and_F00F_xyn]
  rfl

/-- Every word is its class nibble, the field x and the low byte (R71). -/
theorem word_class_x_kk (w : Word) : w = w.extractLsb' 12 4 ++ fieldX w ++ fieldKK w := by
  refine BitVec.eq_of_getLsbD_eq fun j hj => ?_
  simp only [BitVec.getLsbD_append, fieldX, fieldKK, BitVec.getLsbD_extractLsb']
  by_cases h8 : j < 8
  · simp [h8]
  · by_cases h12 : j < 12
    · simp [h8, show j - 8 < 4 by omega, show 8 + (j - 8) = j by omega]
    · simp [h8, show ¬ j - 8 < 4 by omega, show j - 8 - 4 < 4 by omega, show 12 + (j - 8 - 4) = j by omega]

/-- The mask 0xF0FF picks out the class nibble and the low byte. -/
theorem and_F0FF (w : Word) : w &&& 0xF0FF = w.extractLsb' 12 4 ++ 0x0#4 ++ w.extractLsb' 0 8 := by
  conv_lhs => rw [word_class_x_kk w, and_F0FF_xkk]
  rfl

/-- Every class nibble whose words R76 calls legal outright has a row of its own. -/
theorem exists_row_of_class (c : BitVec 4) (h : c ∉ [0x0#4, 0x5#4, 0x8#4, 0x9#4, 0xB#4, 0xE#4, 0xF#4]) :
    ∃ r ∈ opTable, r.mask = 0xF000 ∧ r.value = c ++ 0x0#4 ++ 0x0#4 ++ 0x0#4 := by
  revert c
  decide

/-- The two register skips, whose last nibble R76 wants 0, each have a row. -/
theorem exists_regSkip_row : ∀ c ∈ [0x5#4, 0x9#4], ∃ r ∈ opTable, r.mask = 0xF00F ∧ r.value = c ++ 0x0#4 ++ 0x0#4 ++ 0x0#4 := by
  decide

/-- Every last nibble R76 calls legal in class 8 has a row. -/
theorem exists_alu_row (n : BitVec 4) (h : n ∉ [0x8#4, 0x9#4, 0xA#4, 0xB#4, 0xC#4, 0xD#4, 0xF#4]) :
    ∃ r ∈ opTable, r.mask = 0xF00F ∧ r.value = 0x8#4 ++ 0x0#4 ++ 0x0#4 ++ n := by
  revert n
  decide

/-- Every low byte R76 calls legal in class E has a row. -/
theorem exists_key_row : ∀ kk ∈ [0x9E#8, 0xA1#8], ∃ r ∈ opTable, r.mask = 0xF0FF ∧ r.value = 0xE#4 ++ 0x0#4 ++ kk := by
  decide

/-- Every low byte R76 calls legal in class F has a row. -/
theorem exists_misc_row :
    ∀ kk ∈ [0x07#8, 0x0A#8, 0x15#8, 0x18#8, 0x1E#8, 0x29#8, 0x33#8, 0x55#8, 0x65#8],
      ∃ r ∈ opTable, r.mask = 0xF0FF ∧ r.value = 0xF#4 ++ 0x0#4 ++ kk := by
  decide

/-- A word R76 calls legal hits a row of R74, class by class. -/
theorem exists_row_of_legalWord {w : Word} (h : legalWord w = true) : ∃ r ∈ opTable, w &&& r.mask = r.value := by
  unfold legalWord at h
  split at h <;> rename_i hc
  · rcases Bool.or_eq_true_iff.mp h with h | h <;> rw [beq_iff_eq.mp h] <;> decide
  · have hc : w.extractLsb' 12 4 = 0x5#4 := BitVec.eq_of_toNat_eq hc
    obtain ⟨r, hr, hmask, hvalue⟩ := exists_regSkip_row 0x5#4 (by decide)
    exact ⟨r, hr, by rw [hmask, hvalue, and_F00F, hc, beq_iff_eq.mp h]⟩
  · have hc : w.extractLsb' 12 4 = 0x8#4 := BitVec.eq_of_toNat_eq hc
    obtain ⟨r, hr, hmask, hvalue⟩ := exists_alu_row (w.extractLsb' 0 4) (by simpa using h)
    exact ⟨r, hr, by rw [hmask, hvalue, and_F00F, hc]⟩
  · have hc : w.extractLsb' 12 4 = 0x9#4 := BitVec.eq_of_toNat_eq hc
    obtain ⟨r, hr, hmask, hvalue⟩ := exists_regSkip_row 0x9#4 (by decide)
    exact ⟨r, hr, by rw [hmask, hvalue, and_F00F, hc, beq_iff_eq.mp h]⟩
  · cases h
  · have hc : w.extractLsb' 12 4 = 0xE#4 := BitVec.eq_of_toNat_eq hc
    obtain ⟨r, hr, hmask, hvalue⟩ := exists_key_row (w.extractLsb' 0 8) (of_decide_eq_true h)
    exact ⟨r, hr, by rw [hmask, hvalue, and_F0FF, hc]⟩
  · have hc : w.extractLsb' 12 4 = 0xF#4 := BitVec.eq_of_toNat_eq hc
    obtain ⟨r, hr, hmask, hvalue⟩ := exists_misc_row (w.extractLsb' 0 8) (of_decide_eq_true h)
    exact ⟨r, hr, by rw [hmask, hvalue, and_F0FF, hc]⟩
  · have hc : w.extractLsb' 12 4 ∉ [0x0#4, 0x5#4, 0x8#4, 0x9#4, 0xB#4, 0xE#4, 0xF#4] := by
      intro hmem
      simp only [List.mem_cons, List.not_mem_nil, or_false] at hmem
      rcases hmem with e | e | e | e | e | e | e <;> simp_all
    obtain ⟨r, hr, hmask, hvalue⟩ := exists_row_of_class _ hc
    exact ⟨r, hr, by rw [hmask, hvalue, and_F000]⟩

/-- A word the decoder rejects is one R76 lists as illegal. -/
theorem legalWord_of_decode_none {w : Word} (h : decode w = none) : legalWord w = false := by
  rw [Bool.eq_false_iff]
  intro hlegal
  obtain ⟨r, hr, hmatch⟩ := exists_row_of_legalWord hlegal
  have hmiss := decode_eq_none_iff.mp h r hr
  rw [OpRow.hits, hmatch, beq_self_eq_true] at hmiss
  cases hmiss

end Sys2Proof
end

section
/-! PROOF. The statements of 10_state.md about whole steps: the invariants, the fault record, the modes. -/

namespace Sys2Proof.Machine

/-! ### Zero extension and the fetch -/

/-- An address field is the same number as a word (R72). -/
@[simp] theorem toNat_zextAddr (nnn : Addr) : (zextAddr nnn).toNat = nnn.toNat := by
  rw [zextAddr, BitVec.zeroExtend, BitVec.toNat_setWidth]
  omega

/-- A byte is the same number as a word. -/
@[simp] theorem toNat_zextByte (b : Byte) : (zextByte b).toNat = b.toNat := by
  rw [zextByte, BitVec.zeroExtend, BitVec.toNat_setWidth]
  omega

theorem State.nextInstr_of_decode {s : State} {w : Word} {i : Instr} (hfetch : s.fetch = some w) (hdecode : decode w = some i) :
    s.nextInstr = some i :=
  (s.nextInstr_eq_some_iff i).mpr ⟨w, hfetch, hdecode⟩

/-- An instruction fetched lies inside memory (R53). -/
theorem State.pc_le_of_nextInstr {s : State} {i : Instr} (h : s.nextInstr = some i) : s.pc.toNat ≤ 0xFFE := by
  obtain ⟨w, hfetch, -⟩ := (s.nextInstr_eq_some_iff i).mp h
  refine Nat.le_of_not_lt fun hgt => ?_
  rw [s.fetch_eq_none_iff.mpr hgt] at hfetch
  cases hfetch

/-! ### Return and call at any SP (R91, R93; log 7) -/

theorem State.sp_ne_of_above {s : State} (h : 16 < s.sp.toNat) (n : BitVec 5) (hn : n.toNat ≤ 16) : s.sp ≠ n := by
  rintro rfl
  omega

/-- With SP above 16, `SP - 1` is 16 or more, where no stack entry is. -/
theorem execRet_of_above {s : State} (h : 16 < s.sp.toNat) : execRet s = .fault .stackPointerOutOfRange := by
  have hentry : s.stk[(s.sp - 1).toNat]? = none := by
    rw [s.toNat_sp_sub_one (k := s.sp.toNat - 1) (by omega), Vector.getElem?_eq_none (by omega)]
  rw [execRet, if_neg (State.sp_ne_of_above h 0 (by decide)), hentry]

theorem execCall_of_above {s : State} (nnn : Addr) (h : 16 < s.sp.toNat) :
    execCall nnn s = .fault .stackPointerOutOfRange := by
  rw [execCall, if_neg (State.sp_ne_of_above h 16 (by decide)), dif_neg (by omega)]

/-- Settles O33. -/
theorem stackPointerAboveSixteenStops : Obligations.StackPointerAboveSixteenStops :=
  fun nnn _ h => ⟨execRet_of_above h, execCall_of_above nnn h⟩

/-- A return that answers a next state found the stack empty or popped its newest entry. -/
theorem execRet_next_cases {s t : State} (h : execRet s = .next t) :
    t = s.takeFault .stackUnderflow 0x0000 ∨
      ∃ k : Fin 16, s.sp.toNat = k.val + 1 ∧ t = (s.setSp (s.sp - 1)).setPc s.stk[k] := by
  rcases Nat.lt_or_ge 16 s.sp.toNat with habove | hle
  · rw [execRet_of_above habove] at h
    cases h
  · rcases execRet_cases s hle with ⟨-, e⟩ | ⟨k, hk, e⟩ <;> rw [e] at h <;> cases h
    · exact .inl rfl
    · exact .inr ⟨k, hk, rfl⟩

/-- A call that answers a next state found the stack full or pushed the address after it. -/
theorem execCall_next_cases {nnn : Addr} {s t : State} (h : execCall nnn s = .next t) :
    t = s.takeFault .stackOverflow (zextAddr nnn) ∨
      ∃ hlt : s.sp.toNat < 16, t = (s.push (s.pc + 2) hlt).setPc (zextAddr nnn) := by
  rcases Nat.lt_or_ge 16 s.sp.toNat with habove | hle
  · rw [execCall_of_above nnn habove] at h
    cases h
  · rcases execCall_cases s nnn hle with ⟨-, e⟩ | ⟨hlt, e⟩ <;> rw [e] at h <;> cases h
    · exact .inl rfl
    · exact .inr ⟨hlt, rfl⟩

/-! ### What executing an instruction does to memory and to the flow of control -/

/-- The effect of an instruction on `PC`, the call stack and memory. -/
inductive Flow (s t : State) : Prop where
  /-- The stack and memory stay, and `PC` stays, advances or skips (R25), or becomes a jump's address (R92). -/
  | straight (hpc : t.pc = s.pc ∨ t.pc = s.pc + 2 ∨ t.pc = s.pc + 4 ∨ ∃ nnn : Addr, t.pc = zextAddr nnn)
      (hsp : t.sp = s.sp) (hstk : t.stk = s.stk) (hmem : t.mem = s.mem)
  /-- Bytes are stored from `I` up, all inside memory (R60). -/
  | stored (bs : List Byte) (hin : s.i.toNat + bs.length ≤ 0x1000) (hmem : t.mem = s.mem.load s.i.toNat bs)
      (hpc : t.pc = s.pc + 2) (hsp : t.sp = s.sp) (hstk : t.stk = s.stk)
  /-- The newest stack entry is popped into `PC` (R91). -/
  | popped (k : Fin 16) (hlive : s.sp.toNat = k.val + 1) (hpc : t.pc = s.stk[k]) (hsp : t.sp = s.sp - 1)
      (hstk : t.stk = s.stk) (hmem : t.mem = s.mem)
  /-- The address after the call is pushed (R93). -/
  | pushed (nnn : Addr) (hfree : s.sp.toNat < 16) (hpc : t.pc = zextAddr nnn) (hsp : t.sp = s.sp + 1)
      (hstk : t.stk = s.stk.set s.sp.toNat (s.pc + 2)) (hmem : t.mem = s.mem)

namespace Flow

variable {s t : State}

/-- An instruction that goes on with the next one, the stack and memory untouched. -/
theorem of_advance (hpc : t.pc = s.pc + 2) (hsp : t.sp = s.sp) (hstk : t.stk = s.stk) (hmem : t.mem = s.mem) : Flow s t :=
  .straight (.inr (.inl hpc)) hsp hstk hmem

theorem of_takeFault (s : State) (code : ErrCode) (info : Word) : Flow s (s.takeFault code info) :=
  .straight (.inl rfl) rfl rfl rfl

theorem of_skipIf (s : State) (c : Bool) : Flow s (s.skipIf c) := by
  refine .straight (.inr ?_) rfl rfl rfl
  cases c with
  | false => exact .inl rfl
  | true => exact .inr (.inl rfl)

theorem of_keySkip (s : State) (x : RegIdx) (wanted : Bool) : Flow s (s.keySkip x wanted) := by
  rcases keySkip_cases s x wanted with ⟨-, e⟩ | ⟨-, e⟩ <;> rw [e]
  · exact of_takeFault s _ _
  · exact of_skipIf s _

/-- A data access faults or has its effect, and the effect counts only where the range is in memory (R60). -/
theorem of_dataAccess {c : Nat} {e : State} (h : s.dataAccess c e = .next t)
    (heffect : c = 0 ∨ s.i.toNat + c ≤ 0x1000 → Flow s e) : Flow s t := by
  rcases s.dataAccess_eq c e with ⟨he, hin⟩ | ⟨a, he, -⟩ <;> rw [he] at h <;> cases h
  · exact heffect hin
  · exact of_takeFault s _ _

/-- Storing bytes from `I` up and advancing. -/
theorem of_store (bs : List Byte) (hin : bs.length = 0 ∨ s.i.toNat + bs.length ≤ 0x1000) (hpos : 1 ≤ bs.length) :
    Flow s (s.setMem (s.mem.load (s.effAddr 0) bs)).advance :=
  .stored bs (by omega) rfl rfl rfl rfl

end Flow

/-- Everything executing an instruction can do to `PC`, the call stack and memory. -/
theorem exec_flow {i : Instr} {s t : State} (h : exec i s = .next t) : Flow s t := by
  cases i with
  | cls | ldImm | addImm | ldReg | orReg | andReg | xorReg | addReg | sub | shr | subn | shl | ldI | rnd | ldVxDt | ldDtVx | ldStVx
  | addI | ldF =>
    cases h
    exact .of_advance rfl rfl rfl rfl
  | seImm | sneImm | seReg | sneReg =>
    cases h
    exact .of_skipIf s _
  | skp | sknp =>
    cases h
    exact .of_keySkip s _ _
  | jp nnn =>
    cases h
    exact .straight (.inr (.inr (.inr ⟨nnn, rfl⟩))) rfl rfl rfl
  | ret =>
    rcases execRet_next_cases h with rfl | ⟨k, hk, rfl⟩
    · exact .of_takeFault s _ _
    · exact .popped k hk rfl rfl rfl rfl
  | call nnn =>
    rcases execCall_next_cases h with rfl | ⟨hlt, rfl⟩
    · exact .of_takeFault s _ _
    · exact .pushed nnn hlt rfl rfl rfl rfl
  | drw x y n => exact .of_dataAccess h fun _ => .of_advance rfl rfl rfl rfl
  | ldVxMem x =>
    refine .of_dataAccess h fun _ => ?_
    rw [s.regsLoaded_eq]
    exact .of_advance rfl rfl rfl rfl
  | ldB x => exact .of_dataAccess h fun hin => .of_store (bcdDigits (s.reg x)) hin (by simp [bcdDigits])
  | ldMemVx x =>
    exact .of_dataAccess h fun hin => .of_store (s.regsUpTo x) (by rwa [s.length_regsUpTo]) (by simp)
  | ldVxK x =>
    cases h
    split
    · exact .of_advance rfl rfl rfl rfl
    · exact .straight (.inl rfl) rfl rfl rfl

namespace Flow

variable {s t : State}

theorem mem_wf (h : Flow s t) (hs : s.mem.wf = true) : t.mem.wf = true := by
  cases h with
  | straight _ _ _ hmem | popped _ _ _ _ _ hmem | pushed _ _ _ _ _ hmem => rwa [hmem]
  | stored bs hin hmem => exact hmem ▸ Memory.wf_load _ bs hin hs

theorem spBounded (h : Flow s t) (hs : s.SpBounded) : t.SpBounded := by
  unfold State.SpBounded at *
  cases h with
  | straight _ hsp | stored _ _ _ _ hsp => rwa [hsp]
  | popped k hlive _ hsp => rw [hsp, s.toNat_sp_sub_one hlive]; omega
  | pushed _ hfree _ hsp => rw [hsp, s.toNat_sp_add_one hfree]; omega

/-- A call pushes an address at most 0x1000, as the call itself was fetched from inside memory (R26, R93). -/
theorem stackBounded (h : Flow s t) (hpc : s.pc.toNat ≤ 0xFFE) (hs : ∀ k : Fin 16, s.stk[k].toNat ≤ 0x1000) (k : Fin 16) :
    t.stk[k].toNat ≤ 0x1000 := by
  cases h with
  | straight _ _ hstk | stored _ _ _ _ _ hstk | popped _ _ _ _ hstk => rw [hstk]; exact hs k
  | pushed _ _ _ _ hstk =>
    simp only [hstk, Fin.getElem_fin, Vector.getElem_set]
    split
    · bv_omega
    · exact hs k

/-- From an instruction inside memory `PC` reaches at most 0xFFE + 4 (R25). -/
theorem pcBounded (h : Flow s t) (hpc : s.pc.toNat ≤ 0xFFE) (hs : ∀ k : Fin 16, s.stk[k].toNat ≤ 0x1000) :
    t.pc.toNat ≤ 0x1002 := by
  have haddr (nnn : Addr) : (zextAddr nnn).toNat ≤ 0xFFF := by
    rw [toNat_zextAddr]
    omega
  cases h with
  | straight h =>
    rcases h with h | h | h | ⟨nnn, h⟩ <;> rw [h]
    · omega
    · bv_omega
    · bv_omega
    · have := haddr nnn; omega
  | stored _ _ _ h => rw [h]; bv_omega
  | popped k _ h => have := hs k; rw [h]; omega
  | pushed nnn _ h => have := haddr nnn; rw [h]; omega

end Flow

/-! ### Every step keeps the invariants -/

theorem FaultTaken.code_ne_none {i : Instr} {s : State} {code : ErrCode} {info : Word} (h : FaultTaken i s code info) :
    code ≠ .none := by
  rintro rfl
  exact h

namespace State.Inv

variable {s : State}

/-- In mode Running or AwaitingKey no fault is recorded (R36). -/
theorem err_eq_none (h : s.Inv) (hm : s.mode ≠ .halted) : s.err = .none :=
  Decidable.not_not.mp fun he => hm (h.errIffHalted.mp he)

/-- The end of a tick moves only the timers and the inputs, of which the invariants say nothing. -/
theorem endTick (h : s.Inv) : s.endTick.Inv := by
  unfold State.endTick
  split
  · exact h
  · exact ⟨h.memory, h.spBounded, h.stackBounded, h.pcBounded, h.errIffHalted, h.errinfoClear, h.waiting⟩

/-- Taking a fault records it and halts, so `ERR` and `MODE` agree again (R36, R181). -/
theorem takeFault (h : s.Inv) {code : ErrCode} (hcode : code ≠ .none) (info : Word) : (s.takeFault code info).Inv where
  memory := h.memory
  spBounded := h.spBounded
  stackBounded := h.stackBounded
  pcBounded := h.pcBounded
  errIffHalted := iff_of_true hcode rfl
  errinfoClear := fun e => absurd e hcode
  waiting := nofun

/-- A wait that is resolved ends at the instruction after the `Fx0A`, which lies inside memory (R152, R153). -/
theorem awaitStep (h : s.Inv) (hm : s.mode = .awaitingKey) : s.awaitStep.Inv := by
  cases hkey : lowestKey s.keys with
  | none => rwa [s.awaitStep_of_no_key ((lowestKey_eq_none_iff _).mp hkey)]
  | some k =>
    rw [s.awaitStep_of_key hkey]
    have herr : s.err = .none := h.err_eq_none (by simp [hm])
    have hpc : s.pc.toNat ≤ 0xFFE := State.pc_le_of_nextInstr (h.waiting hm)
    exact ⟨h.memory, h.spBounded, h.stackBounded, by simp; bv_omega, by simp [herr], h.errinfoClear, nofun⟩

/-- `Fx0A` with no key down: the core waits at this very instruction, with WAITX its x field (R24, R35, R152). -/
theorem wait (h : s.Inv) (hm : s.mode = .running) {x : RegIdx} (hi : s.nextInstr = some (.ldVxK x)) :
    ((s.setWaitx x).setMode .awaitingKey).Inv := by
  have herr : s.err = .none := h.err_eq_none (by simp [hm])
  exact ⟨h.memory, h.spBounded, h.stackBounded, h.pcBounded, by simp [herr], h.errinfoClear, fun _ => hi⟩

/-- Executing the instruction at `PC` keeps the invariants: it faults, waits, or moves on in mode Running. -/
theorem exec (h : s.Inv) (hm : s.mode = .running) {i : Instr} (hi : s.nextInstr = some i) {t : State}
    (he : Machine.exec i s = .next t) : t.Inv := by
  have hpc : s.pc.toNat ≤ 0xFFE := State.pc_le_of_nextInstr hi
  have hflow : Flow s t := exec_flow he
  rcases exec_cases he with ⟨code, info, rfl, hfault⟩ | ⟨x, rfl, -, rfl⟩ | q
  · exact h.takeFault hfault.code_ne_none info
  · exact h.wait hm hi
  · exact ⟨hflow.mem_wf h.memory, hflow.spBounded h.spBounded, hflow.stackBounded hpc h.stackBounded,
      hflow.pcBounded hpc h.stackBounded, by rw [q.err, q.mode]; exact h.errIffHalted,
      by rw [q.err, q.errinfo]; exact h.errinfoClear, by simp [q.mode, hm]⟩

end State.Inv

/-- Settles O20, by what a step can do: nothing, an await step, a fault of the fetch or of the decoder, or an instruction. -/
theorem stepKeepsInvariants : Obligations.StepKeepsInvariants := by
  intro s t h hstep
  rcases step_cases hstep with ⟨-, rfl⟩ | ⟨hm, rfl⟩ | ⟨-, -, rfl⟩ | ⟨-, w, -, -, rfl⟩ | ⟨hm, w, i, u, hfetch, hdecode, he, rfl⟩
  · exact h
  · exact (h.awaitStep hm).endTick
  · exact h.takeFault (by decide) _
  · exact h.takeFault (by decide) _
  · exact (h.exec hm (State.nextInstr_of_decode hfetch hdecode) he).endTick

/-! ### Every step keeps ERR and ERRINFO true -/

/-- Whether a fault is due depends on nothing that taking a fault changes: the halted state shows it still (R181, R225). -/
theorem State.faultDue_takeFault (s : State) (code code' : ErrCode) (info info' : Word) :
    (s.takeFault code info).FaultDue code' info' ↔ s.FaultDue code' info' := by
  cases code' <;> exact Iff.rfl

/-- The fault an instruction takes is the one the table of R180 lists in the state it executes in. -/
theorem FaultTaken.faultDue {i : Instr} {s : State} {code : ErrCode} {info : Word} (h : FaultTaken i s code info)
    (hi : s.nextInstr = some i) : s.FaultDue code info := by
  cases code with
  | none | fetchOutOfBounds | illegalInstruction => exact h.elim
  | stackOverflow =>
    obtain ⟨hsp, nnn, rfl, rfl⟩ := h
    exact ⟨hsp, nnn, hi, toNat_zextAddr nnn⟩
  | stackUnderflow =>
    obtain ⟨hsp, rfl, hinfo⟩ := h
    exact ⟨hsp, hi, hinfo⟩
  | dataAddressOutOfBounds =>
    obtain ⟨hpos, hout, hinfo⟩ := (s.rangeFault_eq_some_iff _ _).mp h
    exact ⟨i, hi, hpos, by omega, hinfo⟩
  | keyIndexOutOfRange =>
    obtain ⟨x, rfl | rfl, hreg, rfl⟩ := h
    · exact ⟨x, .inl hi, hreg, toNat_zextByte _⟩
    · exact ⟨x, .inr hi, hreg, toNat_zextByte _⟩

/-- A fault due in a state is true of the halted state that taking it leaves. -/
theorem State.FaultDue.haltTruth {s : State} {code : ErrCode} {info : Word} (h : s.FaultDue code info) :
    (s.takeFault code info).HaltTruth :=
  .inr ((s.faultDue_takeFault code code info info).mpr h)

/-- Settles O21: a step leaves no fault recorded, or takes a fault that is due, or starts from a halted state and stays there. -/
theorem stepKeepsHaltTruth : Obligations.StepKeepsHaltTruth := by
  intro s t hinv htruth hstep
  rcases step_cases hstep with
    ⟨-, rfl⟩ | ⟨hm, rfl⟩ | ⟨-, hfetch, rfl⟩ | ⟨-, w, hfetch, hdecode, rfl⟩ | ⟨hm, w, i, u, hfetch, hdecode, he, rfl⟩
  · exact htruth
  · exact .inl (by simp [hinv.err_eq_none, hm])
  · have hdue : s.FaultDue .fetchOutOfBounds s.pc := ⟨s.fetch_eq_none_iff.mp hfetch, rfl⟩
    exact hdue.haltTruth
  · have hdue : s.FaultDue .illegalInstruction w := ⟨hfetch, legalWord_of_decode_none hdecode⟩
    exact hdue.haltTruth
  · have herr : s.err = .none := hinv.err_eq_none (by simp [hm])
    rcases exec_cases he with ⟨code, info, rfl, hfault⟩ | ⟨x, -, -, rfl⟩ | q
    · rw [State.endTick_of_halted _ rfl]
      exact (hfault.faultDue (State.nextInstr_of_decode hfetch hdecode)).haltTruth
    · exact .inl (by simp [herr])
    · exact .inl (by simp [q.err, herr])

/-! ### MODE (R34) -/

theorem execLdVxK_of_no_key (s : State) (x : RegIdx) (h : s.keys = 0) :
    execLdVxK x s = .next ((s.setWaitx x).setMode .awaitingKey) := by
  rw [execLdVxK, (lowestKey_eq_none_iff _).mpr h]

/-- A Running step that ends waiting executed `Fx0A` with no key down. -/
theorem wait_of_step {s t : State} (hm : s.mode = .running) (hstep : step s = .next t) (ht : t.mode = .awaitingKey) :
    s.keys = 0 ∧ ∃ x, s.nextInstr = some (.ldVxK x) := by
  rcases step_cases hstep with ⟨hs, -⟩ | ⟨hs, -⟩ | ⟨-, -, rfl⟩ | ⟨-, w, -, -, rfl⟩ | ⟨-, w, i, u, hfetch, hdecode, he, rfl⟩
  · simp [hm] at hs
  · simp [hm] at hs
  · cases ht
  · cases ht
  · rw [State.endTick_mode] at ht
    rcases exec_cases he with ⟨code, info, rfl, -⟩ | ⟨x, rfl, hkeys, -⟩ | q
    · cases ht
    · exact ⟨hkeys, x, State.nextInstr_of_decode hfetch hdecode⟩
    · rw [q.mode, hm] at ht
      cases ht

/-- A Running step of `Fx0A` with no key down ends waiting (R152). -/
theorem step_mode_of_wait {s t : State} (hm : s.mode = .running) (hstep : step s = .next t) (hkeys : s.keys = 0) {x : RegIdx}
    (hi : s.nextInstr = some (.ldVxK x)) : t.mode = .awaitingKey := by
  have hexec : exec (.ldVxK x) s = .next ((s.setWaitx x).setMode .awaitingKey) := execLdVxK_of_no_key s x hkeys
  rw [step_of_nextInstr s hm hi, hexec] at hstep
  cases hstep
  exact State.endTick_mode _

theorem State.awaitStep_mode_eq {s : State} (hm : s.mode = .awaitingKey) :
    s.awaitStep.mode = if s.keys = 0 then .awaitingKey else .running := by
  cases hkey : lowestKey s.keys with
  | none =>
    have hkeys : s.keys = 0 := (lowestKey_eq_none_iff _).mp hkey
    rw [s.awaitStep_of_no_key hkeys, if_pos hkeys, hm]
  | some k =>
    have hkeys : s.keys ≠ 0 := fun e => by
      rw [(lowestKey_eq_none_iff _).mpr e] at hkey
      cases hkey
    rw [s.awaitStep_of_key hkey, if_neg hkeys]
    rfl

/-- Settles O15, mode by mode. -/
theorem modeTransitionsAreThoseListed : Obligations.ModeTransitionsAreThoseListed := by
  intro s t hstep
  refine ⟨fun hm => ⟨wait_of_step hm hstep, ?_⟩, fun hm => ?_, fun hm => ?_⟩
  · rintro ⟨hkeys, x, hi⟩
    exact step_mode_of_wait hm hstep hkeys hi
  · rw [step_of_awaiting s hm] at hstep
    cases hstep
    rw [State.endTick_mode, State.awaitStep_mode_eq hm]
  · rw [step_of_halted s hm] at hstep
    cases hstep
    exact hm

end Sys2Proof.Machine
end

section
/-! PROOF. The statements of 10_state.md about what an instruction leaves alone (R21 to R31, R51). -/

namespace Sys2Proof.Machine

/-! ### Frames: what each update of the state may change -/

theorem Unchanged.refl (s : State) (f : Field) : Unchanged s s f := by
  cases f <;> simp [Unchanged]

theorem Unchanged.trans {s t u : State} {f : Field} (h₁ : Unchanged s t f) (h₂ : Unchanged t u f) : Unchanged s u f := by
  cases f with
  | v | stk | mem => exact fun k => (h₂ k).trans (h₁ k)
  | fb => exact fun r c => (h₂ r c).trans (h₁ r c)
  | inputs => exact ⟨h₂.1.trans h₁.1, h₂.2.trans h₁.2⟩
  | i | pc | sp | dt | st | mode | waitx | err | errinfo => exact Eq.trans h₂ h₁

theorem State.frame_setReg (s : State) (x : RegIdx) (b : Byte) : FrameBut [.v] s (s.setReg x b) := by
  intro f hf; cases f <;> simp_all [Unchanged]

theorem State.frame_setPc (s : State) (a : Word) : FrameBut [.pc] s (s.setPc a) := by
  intro f hf; cases f <;> simp_all [Unchanged]

theorem State.frame_setI (s : State) (a : Word) : FrameBut [.i] s (s.setI a) := by
  intro f hf; cases f <;> simp_all [Unchanged]

theorem State.frame_setDt (s : State) (b : Byte) : FrameBut [.dt] s (s.setDt b) := by
  intro f hf; cases f <;> simp_all [Unchanged]

theorem State.frame_setSt (s : State) (b : Byte) : FrameBut [.st] s (s.setSt b) := by
  intro f hf; cases f <;> simp_all [Unchanged]

theorem State.frame_setFb (s : State) (fb : Vector (BitVec 64) 32) : FrameBut [.fb] s (s.setFb fb) := by
  intro f hf; cases f <;> simp_all [Unchanged]

theorem State.frame_setMem (s : State) (m : Memory) : FrameBut [.mem] s (s.setMem m) := by
  intro f hf; cases f <;> simp_all [Unchanged]

theorem State.frame_setMode (s : State) (m : Mode) : FrameBut [.mode] s (s.setMode m) := by
  intro f hf; cases f <;> simp_all [Unchanged]

theorem State.frame_setWaitx (s : State) (x : RegIdx) : FrameBut [.waitx] s (s.setWaitx x) := by
  intro f hf; cases f <;> simp_all [Unchanged]

theorem State.frame_setSp (s : State) (n : BitVec 5) : FrameBut [.sp] s (s.setSp n) := by
  intro f hf; cases f <;> simp_all [Unchanged]

theorem State.frame_push (s : State) (a : Word) (h : s.sp.toNat < 16) : FrameBut [.sp, .stk] s (s.push a h) := by
  intro f hf; cases f <;> simp_all [Unchanged]

theorem State.frame_takeFault (s : State) (code : ErrCode) (info : Word) :
    FrameBut [.mode, .err, .errinfo] s (s.takeFault code info) := by
  obtain ⟨-, -, -, hframe⟩ := s.faulted_takeFault code info
  exact hframe

theorem State.frame_regsLoaded (s : State) (x : RegIdx) : FrameBut [.v] s (s.regsLoaded x) := by
  rw [s.regsLoaded_eq]
  intro f hf
  cases f <;> simp_all [Unchanged]

/-! ### What an instruction leaves alone -/

/-- From `s` to `t` the instruction `i` has written only what its rule names. -/
structure WritesOnly (i : Instr) (s t : State) : Prop where
  fields : ∀ f, f ∉ writesField i → f ≠ .v → f ≠ .mem → Unchanged s t f
  regs : ∀ r, writesReg i r = false → t.reg r = s.reg r
  bytes : ∀ a, storesAt i s a = false → t.mem.read a = s.mem.read a

/-- Every instruction may write the program counter (R24). -/
theorem pc_mem_writesField (i : Instr) : Field.pc ∈ writesField i := by
  cases i <;> simp [writesField]

namespace WritesOnly

variable {i : Instr} {s t u : State}

theorem refl (i : Instr) (s : State) : WritesOnly i s s := ⟨fun f _ _ _ => .refl s f, fun _ _ => rfl, fun _ _ => rfl⟩

/-- One more update, of pieces of state the rule names. -/
theorem update (h : WritesOnly i s t) {may : List Field} (hframe : FrameBut may t u)
    (hmay : ∀ f ∈ may, f ∈ writesField i := by simp [writesField])
    (hv : Field.v ∉ may := by decide) (hmem : Field.mem ∉ may := by decide) : WritesOnly i s u where
  fields f hf hfv hfm := (h.fields f hf hfv hfm).trans (hframe f fun hin => hf (hmay f hin))
  regs r hr := (hframe .v hv r).trans (h.regs r hr)
  bytes a ha := (hframe .mem hmem a).trans (h.bytes a ha)

/-- One more update, of registers among the destinations. -/
theorem updateRegs (h : WritesOnly i s t) (hframe : FrameBut [.v] t u)
    (hregs : ∀ r, writesReg i r = false → u.reg r = t.reg r) : WritesOnly i s u where
  fields f hf hfv hfm := (h.fields f hf hfv hfm).trans (hframe f (by simpa using hfv))
  regs r hr := (hregs r hr).trans (h.regs r hr)
  bytes a ha := (hframe .mem (by decide) a).trans (h.bytes a ha)

theorem setReg (h : WritesOnly i s t) {x : RegIdx} (b : Byte) (hx : writesReg i x = true := by simp [writesReg]) :
    WritesOnly i s (t.setReg x b) := by
  refine h.updateRegs (t.frame_setReg x b) fun r hr => ?_
  have hne : r ≠ x := by rintro rfl; simp [hx] at hr
  rw [State.reg_setReg, if_neg hne]

theorem setPc (h : WritesOnly i s t) (a : Word) : WritesOnly i s (t.setPc a) :=
  h.update (t.frame_setPc a) (by simpa using pc_mem_writesField i)

theorem takeFault (h : WritesOnly i s t) (code : ErrCode) (info : Word)
    (hf : ∀ f ∈ [Field.mode, .err, .errinfo], f ∈ writesField i := by simp [writesField]) :
    WritesOnly i s (t.takeFault code info) :=
  h.update (t.frame_takeFault code info) hf

/-- Bytes stored from `I` up, inside the instruction's range. -/
theorem store {bs : List Byte} (hrange : ∀ a, s.i.toNat ≤ a → a < s.i.toNat + bs.length → storesAt i s a = true) :
    WritesOnly i s (s.setMem (s.mem.load (s.effAddr 0) bs)) where
  fields f _ _ hfm := s.frame_setMem _ f (by simpa using hfm)
  regs _ _ := rfl
  bytes a ha := by
    rw [State.setMem_mem, Memory.read_load, dif_neg]
    rintro ⟨hle, hlt⟩
    have hle : s.i.toNat ≤ a := hle
    have hlt : a - s.i.toNat < bs.length := hlt
    simp [hrange a hle (by omega)] at ha

/-- A data access writes nothing but its effect or a fault (R60). -/
theorem dataAccess {c : Nat} {e : State} (h : s.dataAccess c e = .next t) (he : WritesOnly i s e)
    (hf : ∀ f ∈ [Field.mode, .err, .errinfo], f ∈ writesField i := by simp [writesField]) : WritesOnly i s t := by
  rcases s.dataAccess_eq c e with ⟨hnext, -⟩ | ⟨a, hnext, -⟩ <;> rw [hnext] at h <;> cases h
  · exact he
  · exact (refl i s).takeFault _ a hf

/-- A key skip moves `PC` or faults (R151, R154). -/
theorem keySkip (x : RegIdx) (wanted : Bool)
    (hf : ∀ f ∈ [Field.mode, .err, .errinfo], f ∈ writesField i := by simp [writesField]) :
    WritesOnly i s (s.keySkip x wanted) := by
  rcases keySkip_cases s x wanted with ⟨-, e⟩ | ⟨-, e⟩ <;> rw [e]
  · exact (refl i s).takeFault _ _ hf
  · exact (refl i s).setPc _

end WritesOnly

/-- Executing an instruction writes only what its rule names, instruction by instruction. -/
theorem exec_writesOnly {i : Instr} {s t : State} (h : exec i s = .next t) : WritesOnly i s t := by
  have start := WritesOnly.refl i s
  cases i with
  | jp | seImm | sneImm | seReg | sneReg =>
    cases h
    exact start.setPc _
  | ldImm | addImm | ldReg | orReg | andReg | xorReg | rnd | ldVxDt =>
    cases h
    exact (start.setReg _).setPc _
  | addReg | sub | shr | subn | shl =>
    cases h
    exact ((start.setReg _).setReg _).setPc _
  | ldI | addI | ldF =>
    cases h
    exact (start.update (s.frame_setI _)).setPc _
  | ldDtVx x =>
    cases h
    exact (start.update (s.frame_setDt _)).setPc _
  | ldStVx x =>
    cases h
    exact (start.update (s.frame_setSt _)).setPc _
  | cls =>
    cases h
    exact (start.update (s.frame_setFb _)).setPc _
  | skp | sknp =>
    cases h
    exact .keySkip _ _
  | ldVxK x =>
    cases h
    split
    · exact (start.setReg _).setPc _
    · exact (start.update (s.frame_setWaitx x)).update (State.frame_setMode _ _)
  | ret =>
    rcases execRet_next_cases h with rfl | ⟨k, -, rfl⟩
    · exact start.takeFault _ _
    · exact (start.update (s.frame_setSp _)).setPc _
  | call nnn =>
    rcases execCall_next_cases h with rfl | ⟨hlt, rfl⟩
    · exact start.takeFault _ _
    · exact (start.update (s.frame_push _ hlt)).setPc _
  | drw x y n =>
    exact .dataAccess h <| ((start.update (s.frame_setFb _)).setReg _).setPc _
  | ldB x =>
    refine .dataAccess h (.setPc (.store fun a hle hlt => ?_) _)
    have hlt : a < s.i.toNat + 3 := hlt
    exact decide_eq_true ⟨hle, show a ≤ s.i.toNat + 2 by omega⟩
  | ldMemVx x =>
    refine .dataAccess h (.setPc (.store fun a hle hlt => ?_) _)
    rw [s.length_regsUpTo] at hlt
    exact decide_eq_true ⟨hle, show a ≤ s.i.toNat + x.toNat by omega⟩
  | ldVxMem x =>
    refine .dataAccess h (.setPc (start.updateRegs (s.frame_regsLoaded x) fun r hr => ?_) _)
    rw [s.reg_regsLoaded, if_neg (of_decide_eq_false hr)]

/-- Settles O24, by the rule each update of the state keeps. -/
theorem instructionsWriteOnlyWhatTheirRulesName : Obligations.InstructionsWriteOnlyWhatTheirRulesName := by
  intro i s t h
  obtain ⟨hfields, hregs, hbytes⟩ := exec_writesOnly h
  exact ⟨hfields, hregs, hbytes⟩

/-! ### The screen (R31) -/

/-- The instructions that may write the framebuffer are clear and draw. -/
theorem eq_cls_or_drw_of_writes_fb {i : Instr} (h : Field.fb ∈ writesField i) : i = .cls ∨ ∃ x y n, i = .drw x y n := by
  cases i <;> simp_all [writesField]

/-- Settles O25: of what a step can do only executing an instruction writes the framebuffer, and only clear and draw name it. -/
theorem onlyClearAndDrawChangePixels : Obligations.OnlyClearAndDrawChangePixels := by
  rintro s t hstep ⟨r, c, hpixel⟩
  rcases step_cases hstep with ⟨-, rfl⟩ | ⟨-, rfl⟩ | ⟨-, -, rfl⟩ | ⟨-, w, -, -, rfl⟩ | ⟨hm, w, i, u, hfetch, hdecode, he, rfl⟩
  · exact absurd rfl hpixel
  · simp at hpixel
  · exact absurd rfl hpixel
  · exact absurd rfl hpixel
  · have hi : s.nextInstr = some i := State.nextInstr_of_decode hfetch hdecode
    have hfb : Field.fb ∈ writesField i := by
      by_contra hfb
      rw [State.endTick_fb] at hpixel
      exact hpixel ((exec_writesOnly he).fields .fb hfb (by decide) (by decide) r c)
    rcases eq_cls_or_drw_of_writes_fb hfb with rfl | ⟨x, y, n, rfl⟩
    · exact ⟨hm, .inl hi⟩
    · exact ⟨hm, .inr ⟨x, y, n, hi⟩⟩

end Sys2Proof.Machine
end

section
/-! PROOF. The statements of 20_memory.md: the fetch (R53), what changes memory (R51, R60, R61), and the fetch of stored bytes
(R64). -/

namespace Sys2Proof.Machine

/-! ### The fetch (R53) -/

/-- The two halves of a word fetched inside memory are the bytes at `PC` and `PC + 1`. -/
theorem State.exists_fetch_of_le {s : State} (h : s.pc.toNat ≤ 0xFFE) :
    ∃ w, s.fetch = some w ∧ w.extractLsb' 8 8 = s.mem.read s.pc.toNat ∧ w.extractLsb' 0 8 = s.mem.read (s.pc.toNat + 1) :=
  ⟨_, s.fetch_of_le h, high_wordOfBytes _ _, low_wordOfBytes _ _⟩

/-- Settles O7. -/
theorem fetchReadsTwoBytesOrHalts : Obligations.FetchReadsTwoBytesOrHalts := fun s =>
  ⟨State.exists_fetch_of_le, fun hout hmode =>
    ⟨_, step_of_fetch_none s hmode (s.fetch_eq_none_iff.mpr hout), s.faulted_takeFault .fetchOutOfBounds s.pc⟩⟩

/-! ### What changes memory (R51, R60, R61) -/

/-- The instructions that store are `Fx33` and `Fx55`, each from `I` up to the last byte of its range. -/
theorem eq_ldB_or_ldMemVx_of_storesAt {i : Instr} {s : State} {a : Nat} (h : storesAt i s a = true) :
    ∃ x, (i = .ldB x ∧ a ≤ s.i.toNat + 2 ∨ i = .ldMemVx x ∧ a ≤ s.i.toNat + x.toNat) ∧ s.i.toNat ≤ a := by
  cases i with
  | ldB x =>
    obtain ⟨hle, hlast⟩ := of_decide_eq_true h
    exact ⟨x, .inl ⟨rfl, hlast⟩, hle⟩
  | ldMemVx x =>
    obtain ⟨hle, hlast⟩ := of_decide_eq_true h
    exact ⟨x, .inr ⟨rfl, hlast⟩, hle⟩
  | _ => cases h

/-- No instruction changes what an address outside memory reads as (R60). -/
theorem Flow.read_of_outside {s t : State} (h : Flow s t) {a : Nat} (ha : 0xFFF < a) : t.mem.read a = s.mem.read a := by
  cases h with
  | straight _ _ _ hmem | popped _ _ _ _ _ hmem | pushed _ _ _ _ _ hmem => rw [hmem]
  | stored bs hin hmem => rw [hmem, Memory.read_load, dif_neg (by omega)]

/-- Settles O26: of what a step can do only executing an instruction changes memory; the instruction's frame names the byte, and
what it does to memory as a whole keeps the byte inside. -/
theorem onlyStoresChangeMemory : Obligations.OnlyStoresChangeMemory := by
  intro s t a hstep hread
  rcases step_cases hstep with ⟨-, rfl⟩ | ⟨-, rfl⟩ | ⟨-, -, rfl⟩ | ⟨-, w, -, -, rfl⟩ | ⟨hm, w, i, u, hfetch, hdecode, he, rfl⟩
  · exact absurd rfl hread
  · simp at hread
  · exact absurd rfl hread
  · exact absurd rfl hread
  · rw [State.endTick_mem] at hread
    have hi : s.nextInstr = some i := State.nextInstr_of_decode hfetch hdecode
    have hin : a ≤ 0xFFF := Nat.le_of_not_lt fun hout => hread ((exec_flow he).read_of_outside hout)
    have hstores : storesAt i s a = true := by
      by_contra hstores
      exact hread ((exec_writesOnly he).bytes a (Bool.eq_false_of_not_eq_true hstores))
    obtain ⟨x, ⟨rfl, hlast⟩ | ⟨rfl, hlast⟩, hle⟩ := eq_ldB_or_ldMemVx_of_storesAt hstores
    · exact ⟨hm, x, .inl ⟨hi, hlast⟩, hle, hin⟩
    · exact ⟨hm, x, .inr ⟨hi, hlast⟩, hle, hin⟩

/-! ### Stored bytes are fetched next (R64) -/

section
variable {s t : State} {x : RegIdx} (hm : s.mode = .running) (hstep : step s = .next t)
include hm hstep

/-- After a tick whose instruction stores `bs` from `I` up, all inside memory, address `I + k` reads the byte number `k`. -/
theorem read_of_step_store {i : Instr} (hi : s.nextInstr = some i) {bs : List Byte}
    (hexec : exec i s = s.dataAccess bs.length (s.setMem (s.mem.load (s.effAddr 0) bs)).advance)
    (hin : s.i.toNat + bs.length ≤ 0x1000) {k : Nat} (hk : k < bs.length) : t.mem.read (s.i.toNat + k) = bs[k] := by
  rw [step_of_nextInstr s hm hi, hexec, s.dataAccess_of_inBounds _ (.inr hin)] at hstep
  cases hstep
  simp [State.effAddr, Memory.read_load, hk]

/-- `Fx55` stores `V[k]` at `I + k` (R172). -/
theorem read_of_step_ldMemVx (hi : s.nextInstr = some (.ldMemVx x)) (hin : s.i.toNat + x.toNat ≤ 0xFFF) {k : RegIdx}
    (hk : k.toNat ≤ x.toNat) : t.mem.read (s.i.toNat + k.toNat) = s.reg k := by
  have hlen := s.length_regsUpTo x
  have hread : t.mem.read (s.i.toNat + k.toNat) = (s.regsUpTo x)[k.toNat]'(by omega) :=
    read_of_step_store hm hstep hi (by rw [hlen]; rfl) (by omega) (by omega)
  rw [hread, s.getElem_regsUpTo, BitVec.ofNat_toNat, BitVec.setWidth_eq]

/-- `Fx33` stores the three digits of `Vx` at `I` up (R171). -/
theorem read_of_step_ldB (hi : s.nextInstr = some (.ldB x)) (hin : s.i.toNat + 2 ≤ 0xFFF) :
    (t.mem.read s.i.toNat).toNat = (s.reg x).toNat / 100 ∧
      (t.mem.read (s.i.toNat + 1)).toNat = (s.reg x).toNat / 10 % 10 ∧
      (t.mem.read (s.i.toNat + 2)).toNat = (s.reg x).toNat % 10 := by
  have hread {k : Nat} (hk : k < 3) : t.mem.read (s.i.toNat + k) = (bcdDigits (s.reg x))[k]'hk :=
    read_of_step_store hm hstep hi (bs := bcdDigits (s.reg x)) rfl (show s.i.toNat + 3 ≤ 0x1000 by omega) hk
  have hdigit {d : Nat} (hd : d ≤ (s.reg x).toNat) : (BitVec.ofNat 8 d).toNat = d := by
    rw [BitVec.toNat_ofNat, Nat.mod_eq_of_lt (by omega)]
  exact ⟨(congrArg BitVec.toNat (hread (k := 0) (by decide))).trans (hdigit (by omega)),
    (congrArg BitVec.toNat (hread (k := 1) (by decide))).trans (hdigit (by omega)),
    (congrArg BitVec.toNat (hread (k := 2) (by decide))).trans (hdigit (by omega))⟩

end

/-- Settles O57: the next word's two bytes are read from memory after the tick, where the stores have put them. -/
theorem storedBytesAreFetchedNext : Obligations.StoredBytesAreFetchedNext := by
  intro x s t hm hstep hpc
  obtain ⟨w, hw, hhigh, hlow⟩ := State.exists_fetch_of_le hpc
  refine ⟨w, hw, fun hi hin k hk => ?_, fun hi hin => ?_⟩ <;> rw [hhigh, hlow]
  · have hreg := read_of_step_ldMemVx hm hstep hi hin hk
    exact ⟨fun e => e ▸ hreg, fun e => e ▸ hreg⟩
  · obtain ⟨hhundreds, htens, hones⟩ := read_of_step_ldB hm hstep hi hin
    exact ⟨fun e => e ▸ hhundreds, fun e => e ▸ htens, fun e => e ▸ hones,
      fun e => e ▸ hhundreds, fun e => e ▸ htens, fun e => e ▸ hones⟩

end Sys2Proof.Machine
end

section
/-! PROOF. The statements of 30_encoding.md: the decoder and the encoder undo each other, the opcode map (R74) row by row, and
the illegal words (R76). -/

namespace Sys2Proof

open Laws

/-! ### Decoding an encoded instruction (R70 to R74) -/

theorem decode_encode : ∀ i : Instr, decode (encode i) = some i
  | .cls => RoundTrip.cls
  | .ret => RoundTrip.ret
  | .jp nnn => RoundTrip.jp nnn
  | .call nnn => RoundTrip.call nnn
  | .seImm x kk => RoundTrip.seImm x kk
  | .sneImm x kk => RoundTrip.sneImm x kk
  | .seReg x y => RoundTrip.seReg x y
  | .ldImm x kk => RoundTrip.ldImm x kk
  | .addImm x kk => RoundTrip.addImm x kk
  | .ldReg x y => RoundTrip.ldReg x y
  | .orReg x y => RoundTrip.orReg x y
  | .andReg x y => RoundTrip.andReg x y
  | .xorReg x y => RoundTrip.xorReg x y
  | .addReg x y => RoundTrip.addReg x y
  | .sub x y => RoundTrip.sub x y
  | .shr x y => RoundTrip.shr x y
  | .subn x y => RoundTrip.subn x y
  | .shl x y => RoundTrip.shl x y
  | .sneReg x y => RoundTrip.sneReg x y
  | .ldI nnn => RoundTrip.ldI nnn
  | .rnd x kk => RoundTrip.rnd x kk
  | .drw x y n => RoundTrip.drw x y n
  | .skp x => RoundTrip.skp x
  | .sknp x => RoundTrip.sknp x
  | .ldVxDt x => RoundTrip.ldVxDt x
  | .ldVxK x => RoundTrip.ldVxK x
  | .ldDtVx x => RoundTrip.ldDtVx x
  | .ldStVx x => RoundTrip.ldStVx x
  | .addI x => RoundTrip.addI x
  | .ldF x => RoundTrip.ldF x
  | .ldB x => RoundTrip.ldB x
  | .ldMemVx x => RoundTrip.ldMemVx x
  | .ldVxMem x => RoundTrip.ldVxMem x

/-- Settles O1: each constructor's word hits its own row, and no other row comes first. -/
theorem decodeOfEncodeIsIdentity : Obligations.DecodeOfEncodeIsIdentity := decode_encode

/-- Settles O5: each of the eight words is the encoding of the instruction it stands for. -/
theorem sampleWordsDecode : Obligations.SampleWordsDecode :=
  ⟨decode_encode (.call 0x300), decode_encode (.seImm 0x3 0x2A), decode_encode (.sub 0x1 0x2), decode_encode (.addI 0x2),
    decode_encode (.drw 0x0 0x1 0x5), decode_encode (.skp 0x5), decode_encode (.ldDtVx 0x2), decode_encode (.ldB 0x0)⟩

/-! ### The rows of the opcode map (R74) -/

/-- Settles O3: the conjunction is the statement about every row of the table, written out row by row. -/
theorem opcodeMapDecodesEveryRow : Obligations.OpcodeMapDecodesEveryRow := by
  intro w
  have hrows : opTable.Forall fun r => w &&& r.mask = r.value → decode w = some (r.build w) :=
    List.forall_iff_forall_mem.mpr fun r hr hmatch => decode_of_hits hr (beq_iff_eq.mpr hmatch)
  exact hrows

/-! ### The class nibble -/

section
variable (c x y n : BitVec 4) (kk : Byte) (nnn : Addr)

@[simp] theorem classNibble_nnn : (c ++ nnn).extractLsb' 12 4 = c := BitVec.extractLsb'_append_eq_left

@[simp] theorem classNibble_xkk : (c ++ x ++ kk).extractLsb' 12 4 = c := by
  rw [BitVec.extractLsb'_append_eq_of_le (by decide), BitVec.extractLsb'_append_eq_left]

@[simp] theorem classNibble_xyn : (c ++ x ++ y ++ n).extractLsb' 12 4 = c := by
  rw [BitVec.extractLsb'_append_eq_of_le (by decide), BitVec.extractLsb'_append_eq_of_le (by decide),
    BitVec.extractLsb'_append_eq_left]

end

/-- Every word is its class nibble and the 12-bit address below it (R71). -/
theorem word_class_nnn (w : Word) : w = w.extractLsb' 12 4 ++ fieldNNN w := by
  rw [fieldNNN, BitVec.extractLsb'_append_extractLsb'_eq_extractLsb' (by rfl), BitVec.extractLsb'_eq_self]

/-! ### A word that matches a row is put together again from the row's fixed bits and its fields (R71) -/

section
variable {w : Word}

theorem eq_of_and_FFFF (v : Word) (h : w &&& 0xFFFF = v) : v = w := h.symm.trans BitVec.and_allOnes

theorem class_of_and_F000 {c : BitVec 4} (h : w &&& 0xF000 = c ++ 0x000#12) : w.extractLsb' 12 4 = c := by
  rw [word_class_nnn w, and_F000_nnn, BitVec.append_left_inj] at h
  exact h

theorem nnn_of_and_F000 (c : BitVec 4) (h : w &&& 0xF000 = c ++ 0x000#12) : c ++ fieldNNN w = w := by
  rw [← class_of_and_F000 h, ← word_class_nnn]

theorem xkk_of_and_F000 (c : BitVec 4) (h : w &&& 0xF000 = c ++ 0x000#12) : c ++ fieldX w ++ fieldKK w = w := by
  rw [← class_of_and_F000 h, ← word_class_x_kk]

theorem xyn_of_and_F000 (c : BitVec 4) (h : w &&& 0xF000 = c ++ 0x000#12) : c ++ fieldX w ++ fieldY w ++ fieldN w = w := by
  rw [← class_of_and_F000 h, ← word_nibbles]

theorem xy_of_and_F00F (c n : BitVec 4) (h : w &&& 0xF00F = c ++ 0x0#4 ++ 0x0#4 ++ n) :
    c ++ fieldX w ++ fieldY w ++ n = w := by
  rw [word_nibbles w, and_F00F_xyn] at h
  have hclass : w.extractLsb' 12 4 = c := by simpa using congrArg (BitVec.extractLsb' 12 4) h
  have hn : fieldN w = n := by simpa only [fieldN_xyn] using congrArg fieldN h
  rw [← hclass, ← hn, ← word_nibbles]

theorem x_of_and_F0FF (c : BitVec 4) (kk : Byte) (h : w &&& 0xF0FF = c ++ 0x0#4 ++ kk) : c ++ fieldX w ++ kk = w := by
  rw [word_class_x_kk w, and_F0FF_xkk] at h
  have hclass : w.extractLsb' 12 4 = c := by simpa using congrArg (BitVec.extractLsb' 12 4) h
  have hkk : fieldKK w = kk := by simpa only [fieldKK_xkk] using congrArg fieldKK h
  rw [← hclass, ← hkk, ← word_class_x_kk]

end

/-! ### Encoding a decoded word (R73, R74) -/

/-- The instruction a row builds from a word that matches it is encoded as that word: the row's mask and fields cover all 16
bits. The rows in the order of R74, each with its class nibble and the low bits it fixes. -/
theorem encode_build {r : OpRow} (hr : r ∈ opTable) {w : Word} (hmatch : w &&& r.mask = r.value) :
    encode (r.build w) = w := by
  have hrows : opTable.Forall fun r => w &&& r.mask = r.value → encode (r.build w) = w :=
    ⟨eq_of_and_FFFF 0x00E0, eq_of_and_FFFF 0x00EE, nnn_of_and_F000 0x1, nnn_of_and_F000 0x2, xkk_of_and_F000 0x3,
      xkk_of_and_F000 0x4, xy_of_and_F00F 0x5 0x0, xkk_of_and_F000 0x6, xkk_of_and_F000 0x7,
      xy_of_and_F00F 0x8 0x0, xy_of_and_F00F 0x8 0x1, xy_of_and_F00F 0x8 0x2, xy_of_and_F00F 0x8 0x3, xy_of_and_F00F 0x8 0x4,
      xy_of_and_F00F 0x8 0x5, xy_of_and_F00F 0x8 0x6, xy_of_and_F00F 0x8 0x7, xy_of_and_F00F 0x8 0xE,
      xy_of_and_F00F 0x9 0x0, nnn_of_and_F000 0xA, xkk_of_and_F000 0xC, xyn_of_and_F000 0xD,
      x_of_and_F0FF 0xE 0x9E, x_of_and_F0FF 0xE 0xA1, x_of_and_F0FF 0xF 0x07, x_of_and_F0FF 0xF 0x0A, x_of_and_F0FF 0xF 0x15,
      x_of_and_F0FF 0xF 0x18, x_of_and_F0FF 0xF 0x1E, x_of_and_F0FF 0xF 0x29, x_of_and_F0FF 0xF 0x33, x_of_and_F0FF 0xF 0x55,
      x_of_and_F0FF 0xF 0x65⟩
  exact List.forall_iff_forall_mem.mp hrows r hr hmatch

theorem encode_of_decode {w : Word} {i : Instr} (h : decode w = some i) : encode i = w := by
  obtain ⟨r, hr, hhits, rfl⟩ := exists_row_of_decode h
  exact encode_build hr (beq_iff_eq.mp hhits)

/-- Settles O2: the word hits the row that built the instruction. -/
theorem encodeOfDecodeIsIdentity : Obligations.EncodeOfDecodeIsIdentity := fun _ _ => encode_of_decode

/-! ### The illegal words (R76) -/

/-- R76 lists no instruction's word as illegal: the cases go by the operand fields the class leaves free. -/
theorem legalWord_encode (i : Instr) : legalWord (encode i) = true := by
  unfold legalWord
  cases i with
  | cls | ret => decide
  | jp | call | ldI => rw [encode, classNibble_nnn]; rfl
  | seImm | sneImm | ldImm | addImm | rnd => rw [encode, classNibble_xkk]; rfl
  | drw => rw [encode, classNibble_xyn]; rfl
  | seReg | sneReg | ldReg | orReg | andReg | xorReg | addReg | sub | shr | subn | shl =>
    rw [encode, classNibble_xyn, BitVec.extractLsb'_append_eq_right]
    rfl
  | skp | sknp | ldVxDt | ldVxK | ldDtVx | ldStVx | addI | ldF | ldB | ldMemVx | ldVxMem =>
    rw [encode, classNibble_xkk, BitVec.extractLsb'_append_eq_right]
    rfl

theorem legalWord_of_decode {w : Word} {i : Instr} (h : decode w = some i) : legalWord w = true :=
  encode_of_decode h ▸ legalWord_encode i

/-- Settles O4: a legal word hits a row, and a word that decodes is the word of an instruction, which is legal. -/
theorem illegalWordsAreThoseListed : Obligations.IllegalWordsAreThoseListed := by
  refine fun w => ⟨legalWord_of_decode_none, fun hillegal => Option.eq_none_iff_forall_ne_some.mpr fun i hdecode => ?_⟩
  rw [legalWord_of_decode hdecode] at hillegal
  cases hillegal

end Sys2Proof
end

section
/-! PROOF. The statements of 40_control_flow.md: return (R91), jump (R92) and call (R93), and a return right after a call. -/

namespace Sys2Proof.Machine

/-! ### What a call and a return leave unchanged -/

/-- The frames of two updates in a row make one of both together. -/
theorem FrameBut.trans {s t u : State} {a b may : List Field} (h₁ : FrameBut a s t) (h₂ : FrameBut b t u)
    (hmay : ∀ f ∈ a ++ b, f ∈ may := by decide) : FrameBut may s u := fun f hf =>
  (h₁ f fun hin => hf (hmay f (List.mem_append_left b hin))).trans (h₂ f fun hin => hf (hmay f (List.mem_append_right a hin)))

/-- A call changes the stack, `SP` and `PC` alone (R93). -/
theorem State.frame_push_setPc (s : State) (a target : Word) (h : s.sp.toNat < 16) :
    FrameBut [.stk, .sp, .pc] s ((s.push a h).setPc target) :=
  (s.frame_push a h).trans ((s.push a h).frame_setPc target)

/-- A return changes `SP` and `PC` alone, the popped entry staying where it is (R91). -/
theorem State.frame_setSp_setPc (s : State) (n : BitVec 5) (a : Word) : FrameBut [.sp, .pc] s ((s.setSp n).setPc a) :=
  (s.frame_setSp n).trans ((s.setSp n).frame_setPc a)

/-- A push writes the entry at `SP` and no other (R28). -/
theorem State.stk_push {s : State} (a : Word) (h : s.sp.toNat < 16) {k : Fin 16} (hk : s.sp.toNat = k.val) (j : Fin 16) :
    (s.push a h).stk[j] = if j = k then a else s.stk[j] := by
  simp [Vector.getElem_set, hk, Fin.ext_iff, eq_comm]

/-! ### Return, jump, call -/

/-- Settles O30: a return takes the fault on an empty stack, and pops the newest of its live entries otherwise. -/
theorem returnPopsTheStack : Obligations.ReturnPopsTheStack :=
  ⟨decode_encode .ret, fun s =>
    ⟨fun hempty => ⟨_, execRet_of_empty s hempty, s.faulted_takeFault .stackUnderflow 0x0000⟩,
      fun k hlive => ⟨_, execRet_of_live s k hlive, s.toNat_sp_sub_one hlive, rfl, s.frame_setSp_setPc _ _⟩⟩⟩

/-- Settles O31. -/
theorem jumpSetsPc : Obligations.JumpSetsPc := fun nnn s =>
  ⟨decode_encode (.jp nnn), _, rfl, toNat_zextAddr nnn, s.frame_setPc (zextAddr nnn)⟩

/-- Settles O32: a call with a free slot pushes at `SP`, and takes the fault on a full stack. -/
theorem callPushesTheReturnAddress : Obligations.CallPushesTheReturnAddress := by
  refine fun nnn s => ⟨decode_encode (.call nnn), fun k hk => ?_, fun hfull => ?_⟩
  · have hfree : s.sp.toNat < 16 := hk ▸ k.isLt
    have hsp : (s.sp + 1).toNat = k.val + 1 := hk ▸ s.toNat_sp_add_one hfree
    exact ⟨_, execCall_of_free s nnn hfree, State.stk_push _ hfree hk, hsp, toNat_zextAddr nnn, s.frame_push_setPc _ _ hfree⟩
  · exact ⟨_, _, execCall_of_full s nnn hfull, toNat_zextAddr nnn, s.faulted_takeFault .stackOverflow (zextAddr nnn)⟩

/-! ### A return right after a call (conflict C1) -/

/-- The entry a return pops is the one just pushed, and `SP` is back where the push found it. -/
theorem execRet_push_setPc (s : State) (a target : Word) (h : s.sp.toNat < 16) :
    execRet ((s.push a h).setPc target) = .next ((((s.push a h).setPc target).setSp s.sp).setPc a) := by
  have hentry : ((s.push a h).setPc target).stk[(⟨s.sp.toNat, h⟩ : Fin 16)] = a :=
    (State.stk_push a h rfl _).trans (if_pos rfl)
  have hsp : ((s.push a h).setPc target).sp - 1 = s.sp := BitVec.add_sub_cancel s.sp 1
  rw [execRet_of_live _ ⟨s.sp.toNat, h⟩ (s.toNat_sp_add_one h), hentry, hsp]

/-- Settles O34. -/
theorem callThenReturnComesBack : Obligations.CallThenReturnComesBack := fun nnn s hfree =>
  ⟨_, _, execCall_of_free s nnn hfree, execRet_push_setPc s _ _ hfree, rfl, rfl,
    (s.frame_push_setPc _ _ hfree).trans (State.frame_setSp_setPc _ _ _)⟩

end Sys2Proof.Machine
end

section
/-! PROOF. The statements of 41_skips.md: the skips on a byte (R101, R102) and on a register (R103, R104). -/

namespace Sys2Proof.Machine

/-! ### A skip on the comparison of two bytes (R100) -/

section
variable (s : State)

/-- A skip changes `PC` alone. -/
theorem State.frame_skipIf (cond : Bool) : FrameBut [.pc] s (s.skipIf cond) := s.frame_setPc _

/-- The Boolean test of a skip-eq, in the numbers of R101 and R103. -/
theorem State.pc_skipIf_beq (a b : Byte) :
    (s.skipIf (a == b)).pc = if a.toNat = b.toNat then s.pc + 4 else s.pc + 2 := by
  simp only [State.skipIf_pc, beq_iff_eq, BitVec.toNat_inj]

/-- The Boolean test of a skip-ne, in the numbers of R102 and R104. -/
theorem State.pc_skipIf_bne (a b : Byte) :
    (s.skipIf (a != b)).pc = if a.toNat = b.toNat then s.pc + 2 else s.pc + 4 := by
  simp only [State.skipIf_pc, bne_iff_ne, ne_eq, ite_not, BitVec.toNat_inj]

end

/-! ### The four skips -/

/-- Settles O35. -/
theorem skipsOnImmediate : Obligations.SkipsOnImmediate := fun x kk s =>
  ⟨decode_encode (.seImm x kk), decode_encode (.sneImm x kk),
    ⟨_, rfl, s.pc_skipIf_beq (s.reg x) kk, s.frame_skipIf _⟩, ⟨_, rfl, s.pc_skipIf_bne (s.reg x) kk, s.frame_skipIf _⟩⟩

/-- Settles O36. -/
theorem skipsOnRegister : Obligations.SkipsOnRegister := fun x y s =>
  ⟨decode_encode (.seReg x y), decode_encode (.sneReg x y),
    ⟨_, rfl, s.pc_skipIf_beq (s.reg x) (s.reg y), s.frame_skipIf _⟩,
    ⟨_, rfl, s.pc_skipIf_bne (s.reg x) (s.reg y), s.frame_skipIf _⟩⟩

end Sys2Proof.Machine
end

section
/-! PROOF. The statements of 42_alu.md: load and add of a byte (R111, R112), copy and bitwise operations (R114 to R117), and the
operations that write a flag (R118 to R123). -/

namespace Sys2Proof.Machine

section
variable (s : State) (x : RegIdx)

/-! ### One register written, then `PC` past the instruction -/

/-- A result written to a register changes `V` and `PC` alone (R20, R25). -/
theorem State.frame_setReg_advance (b : Byte) : FrameBut [.v, .pc] s (s.setReg x b).advance :=
  (s.frame_setReg x b).trans ((s.setReg x b).frame_setPc _)

theorem State.reg_setReg_of_ne (b : Byte) (r : RegIdx) (hr : r ≠ x) : (s.setReg x b).reg r = s.reg r :=
  (s.reg_setReg x r b).trans (if_neg hr)

/-! ### A result, then the flag (R120) -/

/-- A result and its flag change `V` and `PC` alone: the flag is one more register written. -/
theorem State.frame_setResultAndFlag_advance (b : Byte) (c : Bool) :
    FrameBut [.v, .pc] s (s.setResultAndFlag x b c).advance :=
  (s.frame_setReg x b).trans ((s.setReg x b).frame_setReg_advance vf (flagByte c))

end

/-- What an instruction that writes a result and a flag leaves, both as numbers: VF holds the flag, also where it is the
destination, and every other register but the destination stays (R120). -/
theorem exists_next_resultAndFlag {i : Instr} {s : State} {x : RegIdx} {b : Byte} {c : Bool} {result flag : Nat}
    (hexec : exec i s = .next (s.setResultAndFlag x b c).advance) (hresult : b.toNat = result)
    (hflag : (flagByte c).toNat = flag) :
    ∃ t, exec i s = .next t ∧
      (∀ r, (t.reg r).toNat = if r = 0xF then flag else if r = x then result else (s.reg r).toNat) ∧
      t.pc = s.pc + 2 ∧ FrameBut [.v, .pc] s t := by
  refine ⟨_, hexec, fun r => ?_, rfl, s.frame_setResultAndFlag_advance x b c⟩
  rw [State.reg_advance, State.reg_setResultAndFlag, apply_ite BitVec.toNat, apply_ite BitVec.toNat, hresult, hflag]
  rfl

/-! ### Subtraction and the shifts as numbers (R110) -/

/-- The wrapping difference, with the 256 it may borrow added first. -/
theorem toNat_sub_wrapping (a b : Byte) : (a - b).toNat = (a.toNat + 256 - b.toNat) % 256 := by
  rw [BitVec.toNat_sub]
  omega

theorem toNat_shiftRight_one (a : Byte) : (a >>> 1).toNat = a.toNat / 2 := by
  rw [BitVec.toNat_ushiftRight, Nat.shiftRight_one]

theorem toNat_shiftLeft_one (a : Byte) : (a <<< 1).toNat = a.toNat * 2 % 256 := by
  rw [BitVec.toNat_shiftLeft, Nat.shiftLeft_eq, pow_one]

/-! ### The instructions that write a flag -/

/-- Settles O39. -/
theorem additionSetsCarry : Obligations.AdditionSetsCarry := fun x y s =>
  ⟨decode_encode (.addReg x y),
    exists_next_resultAndFlag rfl (BitVec.toNat_add (s.reg x) (s.reg y)) (toNat_carryFlag (s.reg x) (s.reg y))⟩

/-- Settles O40: the two subtractions differ in which operand is the minuend. -/
theorem subtractionsSetNotBorrow : Obligations.SubtractionsSetNotBorrow := fun x y s =>
  ⟨decode_encode (.sub x y), decode_encode (.subn x y),
    exists_next_resultAndFlag rfl (toNat_sub_wrapping (s.reg x) (s.reg y)) (toNat_notBorrowFlag (s.reg x) (s.reg y)),
    exists_next_resultAndFlag rfl (toNat_sub_wrapping (s.reg y) (s.reg x)) (toNat_notBorrowFlag (s.reg y) (s.reg x))⟩

/-- Settles O41. -/
theorem shiftsSetTheBitShiftedOut : Obligations.ShiftsSetTheBitShiftedOut := fun x y s =>
  ⟨decode_encode (.shr x y), decode_encode (.shl x y),
    exists_next_resultAndFlag rfl (toNat_shiftRight_one (s.reg x)) (toNat_lowBitFlag (s.reg x)),
    exists_next_resultAndFlag rfl (toNat_shiftLeft_one (s.reg x)) (toNat_highBitFlag (s.reg x))⟩

/-! ### The instructions that write no flag -/

/-- What an instruction that writes one register leaves, the byte written given by its bits. -/
theorem exists_next_bits {i : Instr} {s : State} {x : RegIdx} {b : Byte} {bit : Nat → Bool}
    (hexec : exec i s = .next (s.setReg x b).advance) (hbit : ∀ k, b.getLsbD k = bit k) :
    ∃ t, exec i s = .next t ∧ (∀ k, (t.reg x).getLsbD k = bit k) ∧ (∀ r, r ≠ x → t.reg r = s.reg r) ∧
      t.pc = s.pc + 2 ∧ FrameBut [.v, .pc] s t := by
  refine ⟨_, hexec, fun k => ?_, s.reg_setReg_of_ne x b, rfl, s.frame_setReg_advance x b⟩
  rw [State.reg_advance, State.reg_setReg_same, hbit]

/-- Settles O37: VF is written only where it is the destination. -/
theorem loadAndAddImmediate : Obligations.LoadAndAddImmediate := by
  refine fun x kk s => ⟨decode_encode (.ldImm x kk), decode_encode (.addImm x kk),
    ⟨_, rfl, fun r => s.reg_setReg x r kk, rfl, s.frame_setReg_advance x kk⟩,
    ⟨_, rfl, fun r => ?_, rfl, s.frame_setReg_advance x (s.reg x + kk)⟩⟩
  rw [State.reg_advance, State.reg_setReg, apply_ite BitVec.toNat, BitVec.toNat_add]

/-- Settles O38: the bit of each result is that of the operation on bytes. -/
theorem copyAndBitwise : Obligations.CopyAndBitwise := fun x y s =>
  ⟨decode_encode (.ldReg x y), decode_encode (.orReg x y), decode_encode (.andReg x y), decode_encode (.xorReg x y),
    ⟨_, rfl, s.reg_setReg_same x (s.reg y), s.reg_setReg_of_ne x (s.reg y), rfl, s.frame_setReg_advance x (s.reg y)⟩,
    exists_next_bits rfl fun _ => BitVec.getLsbD_or, exists_next_bits rfl fun _ => BitVec.getLsbD_and,
    exists_next_bits rfl fun _ => BitVec.getLsbD_xor⟩

end Sys2Proof.Machine
end

section
/-! PROOF. The statements of 43_index_random.md: the three writers of `I` (R131, R133, R134) and the random byte (R132). -/

namespace Sys2Proof.Machine

/-! ### The address register written, then `PC` past the instruction -/

/-- A value written to `I` changes `I` and `PC` alone (R23, R25). -/
theorem State.frame_setI_advance (s : State) (a : Word) : FrameBut [.i, .pc] s (s.setI a).advance :=
  (s.frame_setI a).trans ((s.setI a).frame_setPc _)

/-- What an instruction that writes `I` leaves, the value written given as a number. -/
theorem exists_next_index {i : Instr} {s : State} {a : Word} {value : Nat} (hexec : exec i s = .next (s.setI a).advance)
    (hvalue : a.toNat = value) :
    ∃ t, exec i s = .next t ∧ t.i.toNat = value ∧ t.pc = s.pc + 2 ∧ FrameBut [.i, .pc] s t :=
  ⟨_, hexec, hvalue, rfl, s.frame_setI_advance a⟩

/-! ### The values written to `I`, as numbers -/

/-- `I + Vx` wraps at 65536 (R133). -/
theorem toNat_add_zextByte (a : Word) (b : Byte) : (a + zextByte b).toNat = (a.toNat + b.toNat) % 65536 := by
  rw [BitVec.toNat_add, toNat_zextByte]

/-- Five times a byte is at most 1275, so the 16-bit product of R134 does not wrap. -/
theorem toNat_glyph_address (b : Byte) : (zextByte b * BitVec.ofNat 16 Config.glyphBytes).toNat = b.toNat * 5 := by
  have hglyph : (BitVec.ofNat 16 Config.glyphBytes).toNat = 5 := rfl
  have hfits : b.toNat * 5 < 2 ^ 16 := by have := b.isLt; omega
  rw [BitVec.toNat_mul, toNat_zextByte, hglyph, Nat.mod_eq_of_lt hfits]

/-! ### The instructions -/

/-- Settles O42: the three differ only in the value written to `I`. -/
theorem addressRegisterWrites : Obligations.AddressRegisterWrites := fun x nnn s =>
  ⟨decode_encode (.ldI nnn), decode_encode (.addI x), decode_encode (.ldF x),
    exists_next_index rfl (toNat_zextAddr nnn), exists_next_index rfl (toNat_add_zextByte s.i (s.reg x)),
    exists_next_index rfl (toNat_glyph_address (s.reg x))⟩

/-- Settles O43: the byte written is the bitwise AND of kk and RND. -/
theorem randomIsMaskedByKK : Obligations.RandomIsMaskedByKK := fun x kk _ =>
  ⟨decode_encode (.rnd x kk), exists_next_bits rfl fun _ => BitVec.getLsbD_and⟩

end Sys2Proof.Machine
end

section
/-! PROOF. The statements of 44_display.md: clear screen (R141), draw sprite (R142), and the properties of a draw (R143). -/

namespace Sys2Proof.Machine

/-! ### Clear screen -/

/-- A clear changes the framebuffer and `PC` alone (R141). -/
theorem State.frame_setFb_advance (s : State) (fb : Vector (BitVec 64) 32) : FrameBut [.fb, .pc] s (s.setFb fb).advance :=
  (s.frame_setFb fb).trans ((s.setFb fb).frame_setPc _)

/-- Settles O44. -/
theorem clearScreenClearsEveryPixel : Obligations.ClearScreenClearsEveryPixel :=
  ⟨decode_encode .cls, fun s => ⟨_, rfl, pixel_clearFb, rfl, s.frame_setFb_advance clearFb⟩⟩

/-! ### The sprite and its place on the screen (R142) -/

/-- The screen row under row `r` of a sprite at height `Vy`. -/
def State.spriteRow (s : State) (y : RegIdx) (r : Nat) : Fin 32 := rowOf ((s.reg y).toNat % 32 + r)

/-- The screen column under column `c` of a sprite at offset `Vx`. -/
def State.spriteCol (s : State) (x : RegIdx) (c : Nat) : Fin 64 := colOf ((s.reg x).toNat % 64 + c)

/-- Column `c` of row `r` of the sprite at `I`, bit 7 leftmost. -/
def State.spriteData (s : State) (r c : Nat) : Bool := (s.mem.read (s.i.toNat + r)).getLsbD (7 - c)

section
variable {s : State} {x y : RegIdx} {n : Count}

/-! ### When a draw faults -/

theorem exec_drw_of_inBounds (h : n = 0 ∨ s.i.toNat + n.toNat - 1 ≤ 0xFFF) :
    exec (.drw x y n) s = .next (s.drawn x y n.toNat) := by
  refine s.dataAccess_of_inBounds _ ?_
  rcases h with rfl | hle
  · exact .inl rfl
  · exact .inr (by omega)

theorem exec_drw_of_outOfBounds (hpos : 1 ≤ n.toNat) (hout : 0xFFF < s.i.toNat + n.toNat - 1) :
    ∃ a : Word, exec (.drw x y n) s = .next (s.takeFault .dataAddressOutOfBounds a) ∧ a.toNat = max s.i.toNat 0x1000 := by
  rcases s.dataAccess_eq n.toNat (s.drawn x y n.toNat) with ⟨-, hin⟩ | ⟨a, hexec, -, -, -, ha⟩
  · omega
  · exact ⟨a, hexec, ha⟩

/-! ### One draw -/

/-- A draw changes VF, the framebuffer and `PC` alone (R142). -/
theorem State.frame_drawn (k : Nat) : FrameBut [.v, .fb, .pc] s (s.drawn x y k) :=
  (s.frame_setFb _).trans ((s.setFb _).frame_setReg_advance vf _)

/-- The pixel under a sprite bit. -/
theorem State.pixel_drawn_under {r c : Nat} (hr : r < n.toNat) (hc : c < 8) :
    pixel (s.drawn x y n.toNat).fb (s.spriteRow y r) (s.spriteCol x c) =
      (pixel s.fb (s.spriteRow y r) (s.spriteCol x c) ^^ s.spriteData r c) := by
  rw [s.pixel_drawn]
  exact congrArg _ (spriteBit_of_lt _ _ _ _ (by omega) hr hc)

/-- A pixel under no sprite bit stays. -/
theorem State.pixel_drawn_outside {p : Fin 32} {q : Fin 64}
    (h : ∀ r c, r < n.toNat → c < 8 → ¬ (p = s.spriteRow y r ∧ q = s.spriteCol x c)) :
    pixel (s.drawn x y n.toNat).fb p q = pixel s.fb p q := by
  have hbit : spriteBit s.mem s.i.toNat (s.reg x).toNat (s.reg y).toNat n.toNat p q = false := by
    refine Bool.eq_false_iff.mpr fun hset => ?_
    obtain ⟨r, c, hr, hc, -, hp, hq⟩ := exists_of_spriteBit hset
    exact h r c hr hc ⟨hp, hq⟩
  rw [s.pixel_drawn, hbit, Bool.xor_false]

/-- The collision flag, by the rows and columns of the sprite: it is 0x01 exactly when a sprite bit of 1 met a set pixel. -/
theorem State.reg_vf_drawn_eq_one_iff :
    (s.drawn x y n.toNat).reg vf = 0x01 ↔
      ∃ r c, r < n.toNat ∧ c < 8 ∧ s.spriteData r c = true ∧ pixel s.fb (s.spriteRow y r) (s.spriteCol x c) = true := by
  rw [s.reg_vf_drawn_eq_one]
  constructor
  · rintro ⟨p, q, hset, hpixel⟩
    obtain ⟨r, c, hr, hc, hbit, rfl, rfl⟩ := exists_of_spriteBit hset
    exact ⟨r, c, hr, hc, hbit, hpixel⟩
  · rintro ⟨r, c, hr, hc, hbit, hpixel⟩
    exact ⟨_, _, (spriteBit_of_lt _ _ _ _ (by omega) hr hc).trans hbit, hpixel⟩

/-- The collision flag is 0x00 when every sprite bit of 1 met a pixel that was not set. -/
theorem State.reg_vf_drawn_eq_zero_of_dark
    (h : ∀ r c, r < n.toNat → c < 8 → s.spriteData r c = true → pixel s.fb (s.spriteRow y r) (s.spriteCol x c) = false) :
    (s.drawn x y n.toNat).reg vf = 0x00 := by
  refine (s.reg_vf_drawn_eq_zero x y n).mpr fun hone => ?_
  obtain ⟨r, c, hr, hc, hbit, hpixel⟩ := State.reg_vf_drawn_eq_one_iff.mp hone
  exact Bool.false_ne_true ((h r c hr hc hbit).symm.trans hpixel)

/-! ### Two draws of one sprite at one place -/

/-- Drawing twice restores the screen: XOR with the same bit twice (R143 (c)). -/
theorem State.pixel_drawn_drawn (hx : x ≠ vf) (hy : y ≠ vf) (p : Fin 32) (q : Fin 64) :
    pixel ((s.drawn x y n.toNat).drawn x y n.toNat).fb p q = pixel s.fb p q := by
  rw [State.pixel_drawn, State.pixel_drawn, State.drawn_mem, State.drawn_i, State.reg_drawn_of_ne _ _ _ _ hx,
    State.reg_drawn_of_ne _ _ _ _ hy, Bool.xor_assoc, Bool.xor_self, Bool.xor_false]

/-- The second draw collides exactly where the first set a pixel: a sprite bit of 1 on a pixel that was 0 (R142; log 13). -/
theorem State.reg_vf_drawn_drawn_eq_one_iff (hx : x ≠ vf) (hy : y ≠ vf) :
    ((s.drawn x y n.toNat).drawn x y n.toNat).reg vf = 0x01 ↔
      ∃ r c, r < n.toNat ∧ c < 8 ∧ s.spriteData r c = true ∧ pixel s.fb (s.spriteRow y r) (s.spriteCol x c) = false := by
  have hrow (r : Nat) : (s.drawn x y n.toNat).spriteRow y r = s.spriteRow y r := by
    rw [State.spriteRow, State.reg_drawn_of_ne _ _ _ _ hy, State.spriteRow]
  have hcol (c : Nat) : (s.drawn x y n.toNat).spriteCol x c = s.spriteCol x c := by
    rw [State.spriteCol, State.reg_drawn_of_ne _ _ _ _ hx, State.spriteCol]
  rw [State.reg_vf_drawn_eq_one_iff]
  refine exists_congr fun r => exists_congr fun c => and_congr_right fun hr => and_congr_right fun hc =>
    and_congr_right fun (hbit : s.spriteData r c = true) => ?_
  rw [hrow, hcol, State.pixel_drawn_under hr hc, hbit, Bool.xor_true, Bool.not_eq_true']

end

/-! ### The statements -/

/-- Settles O45: a draw faults with nothing drawn, or each pixel and VF are what the closed form of the draw gives. -/
theorem drawXorsTheSprite : Obligations.DrawXorsTheSprite := by
  refine fun x y n s => ⟨decode_encode (.drw x y n), fun hpos hout => ?_, fun hin => ?_⟩
  · obtain ⟨a, hexec, ha⟩ := exec_drw_of_outOfBounds hpos hout
    exact ⟨_, a, hexec, ha, s.faulted_takeFault .dataAddressOutOfBounds a⟩
  · exact ⟨_, exec_drw_of_inBounds hin, fun _ _ => State.pixel_drawn_under, fun _ _ => State.pixel_drawn_outside,
      State.reg_vf_drawn_eq_one_iff.mpr, State.reg_vf_drawn_eq_zero_of_dark, fun _ => s.reg_drawn_of_ne x y n.toNat, rfl,
      State.frame_drawn _⟩

/-- Settles O46: after a clear every pixel is 0, so a draw XORs with 0 and meets no set pixel. -/
theorem clearThenDrawShowsTheSprite : Obligations.ClearThenDrawShowsTheSprite := by
  intro x y n s hin
  refine ⟨(s.setFb clearFb).advance, _, rfl, exec_drw_of_inBounds hin,
    State.reg_vf_drawn_eq_zero_of_dark fun _ _ _ _ _ => pixel_clearFb _ _, fun r c hr hc => ?_, fun p q hout => ?_⟩
  · refine (State.pixel_drawn_under hr hc).trans ?_
    rw [State.advance_fb, State.setFb_fb, pixel_clearFb, Bool.false_xor]
    rfl
  · exact (State.pixel_drawn_outside (s := (s.setFb clearFb).advance) hout).trans (pixel_clearFb p q)

/-- Settles O47: the second draw XORs the same bits onto the same pixels. -/
theorem drawTwiceRestoresTheScreen : Obligations.DrawTwiceRestoresTheScreen := fun _ _ _ _ hx hy hin =>
  ⟨_, _, exec_drw_of_inBounds hin, exec_drw_of_inBounds hin, State.pixel_drawn_drawn hx hy,
    State.reg_vf_drawn_drawn_eq_one_iff hx hy⟩

/-! ### A second draw that does not collide (log 13) -/

/-- Every pixel 1. -/
def litFb : Vector (BitVec 64) 32 := Vector.replicate 32 (BitVec.allOnes 64)

@[simp] theorem pixel_litFb (r : Fin 32) (c : Fin 64) : pixel litFb r c = true := by
  simp only [pixel, litFb, Fin.getElem_fin, Vector.getElem_replicate, BitVec.getLsbD_allOnes, c.isLt, decide_true]

/-- Refutes O48: on a screen of set pixels the first draw of the top row of glyph 0 only erases, so the second meets no set
pixel. -/
theorem not_secondDrawAlwaysCollides : ¬ Obligations.SecondDrawAlwaysCollides := by
  intro h
  let s := State.reset.setFb litFb
  have hin : (1 : Count) = 0 ∨ s.i.toNat + (1 : Count).toNat - 1 ≤ 0xFFF := by decide
  have hone : ((s.drawn 0 0 1).drawn 0 0 1).reg vf = 0x01 :=
    h 0 0 1 s _ _ (by decide) (by decide) (exec_drw_of_inBounds hin) (exec_drw_of_inBounds hin) rfl
      ⟨0, 0, by decide, by decide, by decide⟩
  obtain ⟨r, c, -, -, -, hdark⟩ := (State.reg_vf_drawn_drawn_eq_one_iff (n := 1) (by decide) (by decide)).mp hone
  rw [State.setFb_fb, pixel_litFb] at hdark
  cases hdark

end Sys2Proof.Machine
end

section
/-! PROOF. The statements of 45_keypad.md: the two key skips (R151, R154), `Fx0A` (R152) and the tick that waits for a key (R153). -/

namespace Sys2Proof.Machine

section
variable {s : State} {x : RegIdx}

/-! ### The key skips (R150, R151, R154, R192) -/

theorem State.keySkip_of_le (h : (s.reg x).toNat ≤ 15) (wanted : Bool) :
    s.keySkip x wanted = s.skipIf (keyDown s.keys (s.reg x).toNat == wanted) :=
  if_neg (Nat.not_lt.mpr h)

theorem State.keySkip_of_gt (h : 15 < (s.reg x).toNat) (wanted : Bool) :
    s.keySkip x wanted = s.takeFault .keyIndexOutOfRange (zextByte (s.reg x)) :=
  if_pos h

/-- A key skip on a legal index changes `PC` alone. -/
theorem State.frame_keySkip (h : (s.reg x).toNat ≤ 15) (wanted : Bool) : FrameBut [.pc] s (s.keySkip x wanted) := by
  rw [State.keySkip_of_le h]
  exact s.frame_skipIf _

theorem State.pc_keySkip_pressed (h : (s.reg x).toNat ≤ 15) :
    (s.keySkip x true).pc = if keyDown s.keys (s.reg x).toNat then s.pc + 4 else s.pc + 2 := by
  rw [State.keySkip_of_le h, State.skipIf_pc, beq_true]

/-- The skip wants the key up, so the branches are those of the pressed skip exchanged. -/
theorem State.pc_keySkip_released (h : (s.reg x).toNat ≤ 15) :
    (s.keySkip x false).pc = if keyDown s.keys (s.reg x).toNat then s.pc + 2 else s.pc + 4 := by
  rw [State.keySkip_of_le h, State.skipIf_pc, beq_false]
  cases keyDown s.keys (s.reg x).toNat with
  | false => rfl
  | true => rfl

/-- A key skip on an index above 15 takes the fault with `Vx` as its information, whichever state of the key it wants. -/
theorem State.faulted_keySkip (h : 15 < (s.reg x).toNat) (wanted : Bool) :
    Faulted s (s.keySkip x wanted) .keyIndexOutOfRange (zextByte (s.reg x)) := by
  rw [State.keySkip_of_gt h]
  exact s.faulted_takeFault .keyIndexOutOfRange (zextByte (s.reg x))

/-! ### A key that resolves a wait (R152, R153, R155) -/

/-- The destination holds the key's number, zero-extended, and every other register stays. -/
theorem State.toNat_reg_resolveKey (k : BitVec 4) (r : RegIdx) :
    ((s.resolveKey x k).reg r).toNat = if r = x then k.toNat else (s.reg r).toNat := by
  have hzext : (k.zeroExtend 8).toNat = k.toNat := BitVec.toNat_setWidth_of_le (by decide)
  rw [State.reg_resolveKey, apply_ite BitVec.toNat, hzext]

theorem State.frame_resolveKey (k : BitVec 4) : FrameBut [.v, .pc] s (s.resolveKey x k) :=
  s.frame_setReg_advance x _

theorem execLdVxK_of_key {k : BitVec 4} (h : lowestKey s.keys = some k) : execLdVxK x s = .next (s.resolveKey x k) := by
  rw [execLdVxK, h]

/-- Beginning to wait changes `MODE` and `WAITX` alone (R152). -/
theorem State.frame_setWaitx_setMode (m : Mode) : FrameBut [.mode, .waitx] s ((s.setWaitx x).setMode m) :=
  (s.frame_setWaitx x).trans ((s.setWaitx x).frame_setMode m)

/-! ### The end of a tick (R9, R160) -/

/-- The end of a tick moves the timers and the inputs alone. -/
theorem State.frame_endTick : FrameBut [.dt, .st, .inputs] s s.endTick := by
  intro f hf
  cases f <;> simp_all [Unchanged]

theorem State.toNat_endTick_dt (h : s.mode ≠ .halted) : s.endTick.dt.toNat = s.dt.toNat - 1 := by
  rw [State.endTick_of_not_halted _ h]
  exact toNat_countDown s.dt

theorem State.toNat_endTick_st (h : s.mode ≠ .halted) : s.endTick.st.toNat = s.st.toNat - 1 := by
  rw [State.endTick_of_not_halted _ h]
  exact toNat_countDown s.st

/-! ### The await step (R153) -/

/-- A resolved wait changes `V`, `PC` and `MODE` alone. -/
theorem State.frame_resolveKey_setMode (k : BitVec 4) (m : Mode) :
    FrameBut [.v, .pc, .mode] s ((s.resolveKey x k).setMode m) :=
  (State.frame_resolveKey k).trans ((s.resolveKey x k).frame_setMode m)

/-- The await step raises no fault. -/
theorem State.awaitStep_mode_ne_halted (h : s.mode = .awaitingKey) : s.awaitStep.mode ≠ .halted := by
  rw [State.awaitStep_mode_eq h]
  split <;> decide

end

/-! ### The statements -/

/-- Settles O50: a legal index makes the skip one on the key's bit, and any other takes the fault. -/
theorem keySkips : Obligations.KeySkips := by
  refine fun x s => ⟨decode_encode (.skp x), decode_encode (.sknp x), fun hle =>
    ⟨⟨_, rfl, State.pc_keySkip_pressed hle, State.frame_keySkip hle true⟩,
      ⟨_, rfl, State.pc_keySkip_released hle, State.frame_keySkip hle false⟩⟩, fun hgt i hi => ?_⟩
  rcases hi with rfl | rfl
  · exact ⟨_, _, rfl, toNat_zextByte (s.reg x), State.faulted_keySkip hgt true⟩
  · exact ⟨_, _, rfl, toNat_zextByte (s.reg x), State.faulted_keySkip hgt false⟩

/-- Settles O51: the lowest key down tells which of its two states `Fx0A` leaves. -/
theorem awaitKeyResolvesOrWaits : Obligations.AwaitKeyResolvesOrWaits := by
  intro x s
  obtain ⟨t, hexec⟩ : ∃ t, exec (.ldVxK x) s = .next t := ⟨_, rfl⟩
  refine ⟨decode_encode (.ldVxK x), t, hexec, fun hnone => ?_, fun k hdown hlower => ?_⟩
  · obtain rfl := Host.Outcome.next.inj (hexec.symm.trans (execLdVxK_of_no_key s x hnone))
    exact ⟨rfl, rfl, State.frame_setWaitx_setMode .awaitingKey⟩
  · have hkey : lowestKey s.keys = some k := (lowestKey_eq_some_iff s.keys k).mpr ⟨hdown, hlower⟩
    obtain rfl := Host.Outcome.next.inj (hexec.symm.trans (execLdVxK_of_key hkey))
    exact ⟨State.toNat_reg_resolveKey k, rfl, State.frame_resolveKey k⟩

/-- Settles O10: the tick is the await step and then the end of a tick that has not faulted. -/
theorem awaitTickWaitsOrResolves : Obligations.AwaitTickWaitsOrResolves := by
  intro s hmode
  have hrunning : s.awaitStep.mode ≠ .halted := State.awaitStep_mode_ne_halted hmode
  refine ⟨s.awaitStep.endTick, step_of_awaiting s hmode, fun hnone => ?_, fun k hdown hlower => ?_, ?_, ?_⟩
  · rw [s.awaitStep_of_no_key hnone]
    exact State.frame_endTick
  · have hkey : lowestKey s.keys = some k := (lowestKey_eq_some_iff s.keys k).mpr ⟨hdown, hlower⟩
    rw [s.awaitStep_of_key hkey]
    refine ⟨State.endTick_mode _, State.endTick_pc _, fun r => ?_,
      (State.frame_resolveKey_setMode k .running).trans State.frame_endTick⟩
    rw [State.reg_endTick, State.reg_setMode, State.toNat_reg_resolveKey]
  · rw [State.toNat_endTick_dt hrunning, State.awaitStep_dt]
  · rw [State.toNat_endTick_st hrunning, State.awaitStep_st]

end Sys2Proof.Machine
end

section
/-! PROOF. The statements of 46_timers.md: the countdown that ends a tick (R160), and the instructions that read and write the
timers (R161 to R163). -/

namespace Sys2Proof.Machine

section
variable {s t : State}

/-! ### A timer written, then `PC` past the instruction -/

/-- A value written to DT changes `DT` and `PC` alone (R29, R25). -/
theorem State.frame_setDt_advance (b : Byte) : FrameBut [.dt, .pc] s (s.setDt b).advance :=
  (s.frame_setDt b).trans ((s.setDt b).frame_setPc _)

/-- A value written to ST changes `ST` and `PC` alone (R30, R25). -/
theorem State.frame_setSt_advance (b : Byte) : FrameBut [.st, .pc] s (s.setSt b).advance :=
  (s.frame_setSt b).trans ((s.setSt b).frame_setPc _)

/-! ### The countdown, and the ticks without one (R160, R181) -/

/-- A tick that raised no fault ends with both timers one less, staying at 0, and nothing else moved but the inputs. -/
theorem State.endTick_counts_down (h : s.mode ≠ .halted) :
    s.endTick.dt.toNat = s.dt.toNat - 1 ∧ s.endTick.st.toNat = s.st.toNat - 1 ∧ FrameBut [.dt, .st, .inputs] s s.endTick :=
  ⟨State.toNat_endTick_dt h, State.toNat_endTick_st h, State.frame_endTick⟩

/-- Executing the instruction at `PC` halts the core only by taking a fault that is due. -/
theorem faultDue_of_exec_halts (hm : s.mode = .running) {i : Instr} (hi : s.nextInstr = some i) (he : exec i s = .next t)
    (ht : t.mode = .halted) : ∃ code info, s.FaultDue code info ∧ t = s.takeFault code info := by
  rcases exec_cases he with ⟨code, info, rfl, hfault⟩ | ⟨x, -, -, rfl⟩ | q
  · exact ⟨code, info, hfault.faultDue hi, rfl⟩
  · cases ht
  · rw [q.mode, hm] at ht
    cases ht

/-- A step halts a core that was not halted only by taking a fault that is due, with no end of the tick after it. -/
theorem faultDue_of_step_halts (hm : s.mode ≠ .halted) (hstep : step s = .next t) (ht : t.mode = .halted) :
    ∃ code info, s.FaultDue code info ∧ t = s.takeFault code info := by
  rcases step_cases hstep with
    ⟨hs, -⟩ | ⟨hs, rfl⟩ | ⟨-, hfetch, rfl⟩ | ⟨-, w, hfetch, hdecode, rfl⟩ | ⟨hs, w, i, u, hfetch, hdecode, he, rfl⟩
  · exact absurd hs hm
  · rw [State.endTick_mode] at ht
    exact absurd ht (State.awaitStep_mode_ne_halted hs)
  · exact ⟨.fetchOutOfBounds, s.pc, ⟨s.fetch_eq_none_iff.mp hfetch, rfl⟩, rfl⟩
  · exact ⟨.illegalInstruction, w, ⟨hfetch, legalWord_of_decode_none hdecode⟩, rfl⟩
  · rw [State.endTick_mode] at ht
    rw [State.endTick_of_halted _ ht]
    exact faultDue_of_exec_halts hs (State.nextInstr_of_decode hfetch hdecode) he ht

/-- A step that ends halted moves neither timer: it was halted before, or took a fault. -/
theorem timers_of_step_halted (hstep : step s = .next t) (ht : t.mode = .halted) : t.dt = s.dt ∧ t.st = s.st := by
  by_cases hm : s.mode = .halted
  · rw [step_of_halted s hm] at hstep
    cases hstep
    exact ⟨rfl, rfl⟩
  · obtain ⟨code, info, -, rfl⟩ := faultDue_of_step_halts hm hstep ht
    exact ⟨rfl, rfl⟩

end

/-! ### The statements -/

/-- Settles O11: a tick that raises no fault ends with the countdown, and one that ends halted has none. -/
theorem timersCountDownOncePerTick : Obligations.TimersCountDownOncePerTick := by
  refine ⟨fun s u i hmode hi hexec hu => ⟨u.endTick, ?_, State.endTick_counts_down hu⟩, fun s t hmode hstep => ?_,
    fun s t => timers_of_step_halted⟩
  · rw [step_of_nextInstr s hmode hi, hexec]
    rfl
  · rw [step_of_awaiting s hmode] at hstep
    cases hstep
    have hcount := State.endTick_counts_down (State.awaitStep_mode_ne_halted hmode)
    rwa [State.awaitStep_dt, State.awaitStep_st] at hcount

/-- Settles O52: each of the three writes one byte and moves `PC` past the instruction. -/
theorem timerReadsAndWrites : Obligations.TimerReadsAndWrites := fun x s =>
  ⟨decode_encode (.ldVxDt x), decode_encode (.ldDtVx x), decode_encode (.ldStVx x),
    ⟨_, rfl, fun r => s.reg_setReg x r s.dt, rfl, s.frame_setReg_advance x s.dt⟩,
    ⟨_, rfl, rfl, rfl, State.frame_setDt_advance (s.reg x)⟩, ⟨_, rfl, rfl, rfl, State.frame_setSt_advance (s.reg x)⟩⟩

end Sys2Proof.Machine
end

section
/-! PROOF. The statements of 47_memory_transfer.md: BCD split (R171), store registers (R172) and load registers (R173), with the
bounds check that they and a draw begin with (R60, R187). -/

namespace Sys2Proof.Machine

section
variable {s : State} {i : Instr}

/-! ### A data range that leaves memory (R60, R187) -/

/-- An instruction with a data range is a data access of that range: nothing of it happens before the check. -/
theorem exists_exec_eq_dataAccess (s : State) (hpos : 1 ≤ dataBytes i) : ∃ e, exec i s = s.dataAccess (dataBytes i) e := by
  cases i with
  | drw | ldB | ldMemVx | ldVxMem => exact ⟨_, rfl⟩
  | _ => cases hpos

/-- A range whose last byte, at `I + k`, is outside memory takes the fault with the lowest address outside. -/
theorem exec_of_outOfBounds {k : Nat} (hk : dataBytes i = k + 1) (hout : 0xFFF < s.i.toNat + k) :
    ∃ a : Word, exec i s = .next (s.takeFault .dataAddressOutOfBounds a) ∧ a.toNat = max s.i.toNat 0x1000 := by
  obtain ⟨e, hexec⟩ := exists_exec_eq_dataAccess (i := i) s (by omega)
  rcases s.dataAccess_eq (dataBytes i) e with ⟨-, hin⟩ | ⟨a, hfault, -, -, -, ha⟩
  · omega
  · exact ⟨a, hexec.trans hfault, ha⟩

theorem exists_faulted_of_outOfBounds {k : Nat} (hk : dataBytes i = k + 1) (hout : 0xFFF < s.i.toNat + k) :
    ∃ (t : State) (a : Word), exec i s = .next t ∧ a.toNat = max s.i.toNat 0x1000 ∧
      Faulted s t .dataAddressOutOfBounds a := by
  obtain ⟨a, hexec, ha⟩ := exec_of_outOfBounds hk hout
  exact ⟨_, a, hexec, ha, s.faulted_takeFault .dataAddressOutOfBounds a⟩

/-! ### Bytes stored from `I` up, inside memory -/

/-- What an instruction that stores `bs` from `I` up leaves: each byte at its address, every other byte as it was. -/
theorem exists_next_store {bs : List Byte}
    (hexec : exec i s = s.dataAccess bs.length (s.setMem (s.mem.load (s.effAddr 0) bs)).advance)
    (hin : s.i.toNat + bs.length ≤ 0x1000) :
    ∃ t, exec i s = .next t ∧ (∀ k (hk : k < bs.length), t.mem.read (s.i.toNat + k) = bs[k]) ∧
      (∀ a, ¬ (s.i.toNat ≤ a ∧ a < s.i.toNat + bs.length) → t.mem.read a = s.mem.read a) ∧
      t.pc = s.pc + 2 ∧ FrameBut [.mem, .pc] s t := by
  refine ⟨_, hexec.trans (s.dataAccess_of_inBounds _ (.inr hin)), fun k hk => ?_, fun a ha => ?_, rfl,
    (s.frame_setMem _).trans ((s.setMem _).frame_setPc _)⟩
  · simp [State.effAddr, Memory.read_load, hk]
  · rw [State.advance_mem, State.setMem_mem, Memory.read_load, State.effAddr, dif_neg (by omega)]

/-- A number no greater than a byte fits a byte: so the digits of `Vx` are stored unchanged (R171). -/
theorem toNat_ofNat_of_le_byte {b : Byte} {d : Nat} (hd : d ≤ b.toNat) : (BitVec.ofNat 8 d).toNat = d :=
  Nat.mod_eq_of_lt (Nat.lt_of_le_of_lt hd b.isLt)

/-! ### Registers loaded from `I` up, inside memory -/

/-- The registers loaded change `V` and `PC` alone (R173). -/
theorem State.frame_regsLoaded_advance (s : State) (x : RegIdx) : FrameBut [.v, .pc] s (s.regsLoaded x).advance :=
  (s.frame_regsLoaded x).trans ((s.regsLoaded x).frame_setPc _)

theorem State.pc_regsLoaded (s : State) (x : RegIdx) : (s.regsLoaded x).pc = s.pc := s.frame_regsLoaded x .pc (by decide)

end

/-! ### The statements -/

/-- Settles O54: three bytes stored, each digit of `Vx` at its place. -/
theorem bcdSplitStoresThreeDigits : Obligations.BcdSplitStoresThreeDigits := by
  refine fun x s => ⟨decode_encode (.ldB x), exists_faulted_of_outOfBounds rfl, fun hin => ?_⟩
  obtain ⟨t, hexec, hread, hother, hpc, hframe⟩ :=
    exists_next_store (i := .ldB x) (bs := bcdDigits (s.reg x)) rfl (show s.i.toNat + 3 ≤ 0x1000 by omega)
  have hdigit {k d : Nat} (hk : k < 3) (hkd : (bcdDigits (s.reg x))[k]'hk = BitVec.ofNat 8 d) (hd : d ≤ (s.reg x).toNat) :
      (t.mem.read (s.i.toNat + k)).toNat = d := by
    rw [hread k hk, hkd, toNat_ofNat_of_le_byte hd]
  exact ⟨t, hexec, hdigit (k := 0) (by decide) rfl (by omega), hdigit (k := 1) (by decide) rfl (by omega),
    hdigit (k := 2) (by decide) rfl (by omega), fun a ha => hother a (show ¬ (s.i.toNat ≤ a ∧ a < s.i.toNat + 3) by omega),
    hpc, hframe⟩

/-- Settles O55: the byte number `k` stored is `V[k]`. -/
theorem storeRegistersWritesTheRange : Obligations.StoreRegistersWritesTheRange := by
  refine fun x s => ⟨decode_encode (.ldMemVx x), exists_faulted_of_outOfBounds rfl, fun hin => ?_⟩
  have hlen : (s.regsUpTo x).length = x.toNat + 1 := s.length_regsUpTo x
  obtain ⟨t, hexec, hread, hother, hpc, hframe⟩ :=
    exists_next_store (i := .ldMemVx x) (bs := s.regsUpTo x) (by rw [hlen]; rfl) (by omega)
  refine ⟨t, hexec, fun k hk => ?_, fun a ha => hother a (by omega), hpc, hframe⟩
  rw [hread k.toNat (by omega), s.getElem_regsUpTo, BitVec.ofNat_toNat, BitVec.setWidth_eq]

/-- Settles O56. -/
theorem loadRegistersReadsTheRange : Obligations.LoadRegistersReadsTheRange := fun x s =>
  ⟨decode_encode (.ldVxMem x), exists_faulted_of_outOfBounds rfl, fun hin =>
    ⟨_, s.dataAccess_of_inBounds _ (.inr (by omega)), s.reg_regsLoaded x, congrArg (· + 2) (s.pc_regsLoaded x),
      s.frame_regsLoaded_advance x⟩⟩

end Sys2Proof.Machine
end

section
/-! PROOF. The statements of 60_exceptions.md: which fault a tick takes and what it leaves (R180, R181, R184, R187, R188), and that
a halted tick is a no-op (R182). -/

namespace Sys2Proof.Machine

/-! ### A data range outside memory (R187) -/

/-- Settles O49: each of the four forms has `c` data bytes. -/
theorem dataRangeOutsideMemoryHalts : Obligations.DataRangeOutsideMemoryHalts := by
  intro s i c hform hout
  obtain ⟨k, hk, rfl⟩ : ∃ k, dataBytes i = k + 1 ∧ c = k + 1 := by
    rcases hform with ⟨x, y, n, rfl, rfl, hpos⟩ | ⟨x, rfl, rfl⟩ | ⟨x, rfl, rfl⟩ | ⟨x, rfl, rfl⟩
    · obtain ⟨k, hk⟩ := Nat.exists_eq_add_of_le' hpos
      exact ⟨k, hk, hk⟩
    · exact ⟨2, rfl, rfl⟩
    · exact ⟨x.toNat, rfl, rfl⟩
    · exact ⟨x.toNat, rfl, rfl⟩
  exact exists_faulted_of_outOfBounds hk hout

section
variable {s t : State}

/-! ### A fault that is due is taken (R180) -/

/-- A tick that takes a fault ends with it: no countdown follows (R181). -/
theorem endOfTick_takeFault (s : State) (code : ErrCode) (info : Word) :
    endOfTick (.next (s.takeFault code info)) = .next (s.takeFault code info) := rfl

/-- The fault of an instruction, in a Running tick that executes it. -/
theorem step_of_exec_faults (hm : s.mode = .running) {i : Instr} (hi : s.nextInstr = some i) {code : ErrCode} {info : Word}
    (he : exec i s = .next (s.takeFault code info)) : step s = .next (s.takeFault code info) := by
  rw [step_of_nextInstr s hm hi, he, endOfTick_takeFault]

/-- A Running tick takes the fault that is due, row by row of the table of R180. -/
theorem step_of_faultDue (hm : s.mode = .running) {code : ErrCode} {info : Word} (h : s.FaultDue code info) :
    step s = .next (s.takeFault code info) := by
  cases code with
  | none => exact h.elim
  | fetchOutOfBounds =>
    obtain ⟨hpc, rfl⟩ := h
    exact step_of_fetch_none s hm (s.fetch_eq_none_iff.mpr hpc)
  | illegalInstruction =>
    obtain ⟨hfetch, hillegal⟩ := h
    exact step_of_illegal s hm hfetch ((illegalWordsAreThoseListed info).mpr hillegal)
  | stackOverflow =>
    obtain ⟨hsp, nnn, hi, hinfo⟩ := h
    obtain rfl : info = zextAddr nnn := BitVec.eq_of_toNat_eq (hinfo.trans (toNat_zextAddr nnn).symm)
    exact step_of_exec_faults hm hi (execCall_of_full s nnn hsp)
  | stackUnderflow =>
    obtain ⟨hsp, hi, rfl⟩ := h
    exact step_of_exec_faults hm hi (execRet_of_empty s hsp)
  | dataAddressOutOfBounds =>
    obtain ⟨i, hi, hpos, hout, hinfo⟩ := h
    obtain ⟨k, hk⟩ := Nat.exists_eq_add_of_le' hpos
    obtain ⟨a, he, ha⟩ := exec_of_outOfBounds (s := s) hk (by omega)
    obtain rfl : info = a := BitVec.eq_of_toNat_eq (hinfo.trans ha.symm)
    exact step_of_exec_faults hm hi he
  | keyIndexOutOfRange =>
    obtain ⟨x, hi, hreg, hinfo⟩ := h
    obtain rfl : info = zextByte (s.reg x) := BitVec.eq_of_toNat_eq (hinfo.trans (toNat_zextByte _).symm)
    rcases hi with hi | hi
    · exact step_of_exec_faults hm hi (congrArg Host.Outcome.next (State.keySkip_of_gt hreg true))
    · exact step_of_exec_faults hm hi (congrArg Host.Outcome.next (State.keySkip_of_gt hreg false))

/-- A Running tick halts the core exactly when some fault is due. -/
theorem step_halts_iff_faultDue (hm : s.mode = .running) (hstep : step s = .next t) :
    t.mode = .halted ↔ ∃ code info, s.FaultDue code info := by
  constructor
  · intro ht
    obtain ⟨code, info, hdue, -⟩ := faultDue_of_step_halts (by simp [hm]) hstep ht
    exact ⟨code, info, hdue⟩
  · rintro ⟨code, info, hdue⟩
    obtain rfl := Host.Outcome.next.inj (hstep.symm.trans (step_of_faultDue hm hdue))
    rfl

/-- Whether a fault is due does not depend on the mode the state is in. -/
theorem State.FaultDue.setMode {code : ErrCode} {info : Word} (h : s.FaultDue code info) (m : Mode) :
    (s.setMode m).FaultDue code info := by
  cases code <;> exact h

/-! ### Every tick answers a next state while SP is at most 16 (R27, R180) -/

theorem exists_exec_next (hsp : s.SpBounded) (i : Instr) : ∃ t, exec i s = .next t := by
  have hdata (c : Nat) (e : State) : ∃ t, s.dataAccess c e = .next t := by
    rcases s.dataAccess_eq c e with ⟨h, -⟩ | ⟨a, h, -⟩
    · exact ⟨_, h⟩
    · exact ⟨_, h⟩
  cases i with
  | drw | ldB | ldMemVx | ldVxMem => exact hdata _ _
  | ret =>
    rcases execRet_cases s hsp with ⟨-, h⟩ | ⟨k, -, h⟩
    · exact ⟨_, h⟩
    · exact ⟨_, h⟩
  | call nnn =>
    rcases execCall_cases s nnn hsp with ⟨-, h⟩ | ⟨hlt, h⟩
    · exact ⟨_, h⟩
    · exact ⟨_, h⟩
  | _ => exact ⟨_, rfl⟩

theorem exists_step_next (hsp : s.SpBounded) : ∃ t, step s = .next t := by
  cases hm : s.mode with
  | halted => exact ⟨_, step_of_halted s hm⟩
  | awaitingKey => exact ⟨_, step_of_awaiting s hm⟩
  | running =>
    cases hfetch : s.fetch with
    | none => exact ⟨_, step_of_fetch_none s hm hfetch⟩
    | some w =>
      cases hdecode : decode w with
      | none => exact ⟨_, step_of_illegal s hm hfetch hdecode⟩
      | some i =>
        obtain ⟨u, hu⟩ := exists_exec_next hsp i
        exact ⟨u.endTick, by rw [step_of_decode s hm hfetch hdecode, hu, endOfTick]⟩

end

/-! ### The statements -/

/-- Settles O12: the step took a fault that was due, and taking a fault records it and halts. -/
theorem faultsArePrecise : Obligations.FaultsArePrecise := by
  intro s t hstep hm ht
  obtain ⟨code, info, hdue, rfl⟩ := faultDue_of_step_halts hm hstep ht
  exact ⟨hdue, s.frame_takeFault code info⟩

/-- Settles O13. The bound on SP goes unused: above 16 a return and a call answer no next state, and the rest ignore SP. -/
theorem faultsAreExactlyThoseOfTheTable : Obligations.FaultsAreExactlyThoseOfTheTable := by
  refine fun s t _ hm hstep => ⟨step_halts_iff_faultDue hm hstep, fun code info hdue => ?_, rfl, rfl, rfl, rfl, rfl, rfl, rfl⟩
  obtain rfl := Host.Outcome.next.inj (hstep.symm.trans (step_of_faultDue hm hdue))
  exact ⟨rfl, rfl⟩

/-- Settles O14: in mode Running the step would take each of the two faults, and it has one answer. -/
theorem atMostOneFaultIsDue : Obligations.AtMostOneFaultIsDue := by
  intro s c c' a a' hdue hdue'
  have hstep : step (s.setMode .running) = .next ((s.setMode .running).takeFault c a) :=
    step_of_faultDue rfl (hdue.setMode .running)
  have hstep' : step (s.setMode .running) = .next ((s.setMode .running).takeFault c' a') :=
    step_of_faultDue rfl (hdue'.setMode .running)
  have heq := Host.Outcome.next.inj (hstep.symm.trans hstep')
  exact ⟨congrArg State.err heq, congrArg State.errinfo heq⟩

/-- Settles O22. -/
theorem stepNeverStops : Obligations.StepNeverStops := fun _ => exists_step_next

/-- Settles O8: the decoder rejects exactly the words of R76. -/
theorem illegalWordHalts : Obligations.IllegalWordHalts := fun s w hm hfetch hillegal =>
  ⟨_, step_of_faultDue (code := .illegalInstruction) hm ⟨hfetch, hillegal⟩, s.faulted_takeFault .illegalInstruction w⟩

/-- Settles O9. -/
theorem haltedTickChangesNothing : Obligations.HaltedTickChangesNothing := step_of_halted

end Sys2Proof.Machine
end

section
/-! PROOF. The statements of 70_reset_and_hazards.md: the reset state (R210, R213), the runs that start from it, the end of a run
(R215), a timer written in its own tick (R218), and where a tick depends on its inputs (R224). -/

namespace Sys2Proof.Machine

/-! ### The reset state (R210) -/

theorem boot_of_progOk (font : Vector Byte 80) {prog : List Byte} (h : progOk prog = true) :
    boot font prog = some (State.resetWith font prog) := if_pos h

theorem State.reg_reset (r : RegIdx) : State.reset.reg r = 0x00 := by simp [State.reset, State.reg]

theorem State.stk_reset (k : Fin 16) : State.reset.stk[k] = 0x0000 := by simp [State.reset]

/-- Settles O16: memory is the font and the program over zeros, and every other piece of state is reset's. -/
theorem resetStateIsAsListed : Obligations.ResetStateIsAsListed := by
  intro font prog hprog
  refine ⟨_, boot_of_progOk font hprog, State.reg_reset, rfl, rfl, rfl, State.stk_reset, rfl, rfl, pixel_clearFb,
    fun k => ?_, fun k => State.read_resetWith_prog font prog k.val k.isLt, fun a ha hout => ?_, rfl, rfl, rfl, rfl⟩
  · have hbelow : ¬ (Config.progBase ≤ k.val ∧ k.val < Config.progBase + prog.length) := by
      have : Config.progBase = 0x200 := rfl
      omega
    rw [State.read_resetWith_other font prog k.val hbelow, dif_pos k.isLt]
    rfl
  · rw [State.read_resetWith_other font prog a hout, dif_neg (by omega)]

/-- Storing the default font over the reset contents lists nothing: the unlisted bytes are that font already (log 4). -/
theorem Memory.load_font_nil : Memory.load [] 0 Config.font.toList = [] := by
  refine Memory.ext_of_wf (Memory.wf_load 0 _ (by simp [Config.memSize]) Memory.wf_reset) rfl fun a => ?_
  rw [Memory.read_load, Memory.read_nil]
  split <;> rename_i h
  · have ha : a < 80 := by simpa using h
    simp [Memory.unlisted, ha]
  · rfl

/-- Settles O17. -/
theorem resetHoldsDefaultFontAndNoProgram : Obligations.ResetHoldsDefaultFontAndNoProgram := by
  unfold Obligations.ResetHoldsDefaultFontAndNoProgram
  rw [State.resetWith_eq, Memory.load_font_nil]
  rfl

/-! ### The invariants at the start and along a run -/

/-- Reset with any canonical memory, under any inputs. -/
theorem State.inv_reset_setMem {m : Memory} (hm : m.wf = true) (inputs : List TickInput) :
    ((State.reset.setMem m).withInputs inputs).Inv where
  memory := hm
  spBounded := Nat.zero_le 16
  stackBounded k := by
    have hk : State.reset.stk[k].toNat ≤ 0x1000 := by rw [State.stk_reset]; decide
    exact hk
  pcBounded := show 0x200 ≤ 0x1002 by decide
  errIffHalted := iff_of_false (fun h => h rfl) nofun
  errinfoClear _ := rfl
  waiting := nofun

/-- Settles O18. -/
theorem resetSatisfiesInvariants : Obligations.ResetSatisfiesInvariants := State.inv_reset_setMem Memory.wf_reset []

/-- The font and a program the loader accepts lie inside memory, so the memory of a start is canonical. -/
theorem Memory.wf_resetWith (font : Vector Byte 80) {prog : List Byte} (h : progOk prog = true) :
    (State.resetWith font prog).mem.wf = true := by
  obtain ⟨-, hlen⟩ := (progOk_iff prog).mp h
  rw [State.resetWith_eq]
  refine Memory.wf_load _ _ ?_ (Memory.wf_load _ _ ?_ Memory.wf_reset)
  · show 0x200 + prog.length ≤ 4096
    omega
  · simp [Config.memSize]

/-- Settles O19. -/
theorem everyStartSatisfiesInvariants : Obligations.EveryStartSatisfiesInvariants := fun font _ inputs h =>
  State.inv_reset_setMem (Memory.wf_resetWith font h) inputs

theorem Reachable.inv_haltTruth {s : State} (h : Reachable s) : s.Inv ∧ s.HaltTruth := by
  induction h with
  | start font prog inputs hprog => exact ⟨everyStartSatisfiesInvariants font prog inputs hprog, .inl rfl⟩
  | step s t _ hstep ih =>
    obtain ⟨hinv, htruth⟩ := ih
    exact ⟨stepKeepsInvariants s t hinv hstep, stepKeepsHaltTruth s t hinv htruth hstep⟩

/-- Settles O23: the invariants hold at every start and every step keeps them, and under them a step answers. -/
theorem runsNeverLeaveTheInvariants : Obligations.RunsNeverLeaveTheInvariants := by
  intro s h
  obtain ⟨hinv, htruth⟩ := h.inv_haltTruth
  exact ⟨hinv, htruth, stepNeverStops s hinv.spBounded⟩

/-! ### A timer written in a tick (R218) -/

/-- Settles O53: the instruction's write, then the countdown of the tick (R160). -/
theorem writtenTimerIsDecrementedInItsTick : Obligations.WrittenTimerIsDecrementedInItsTick := by
  obtain ⟨hcount, -, -⟩ := timersCountDownOncePerTick
  refine fun x s hm => ⟨fun hi => ?_, fun hi => ?_⟩
  · obtain ⟨t, hstep, hdt, hst, hframe⟩ := hcount s _ _ hm hi rfl (by simp [hm])
    exact ⟨t, hstep, hdt, hst, hframe .pc (by decide), (State.frame_setDt_advance (s.reg x)).trans hframe⟩
  · obtain ⟨t, hstep, hdt, hst, hframe⟩ := hcount s _ _ hm hi rfl (by simp [hm])
    exact ⟨t, hstep, hst, hdt, hframe .pc (by decide), (State.frame_setSt_advance (s.reg x)).trans hframe⟩

/-! ### The end of a run (R215) -/

section
variable {s : State}

theorem State.AtEnd.mode_ne_halted (h : s.AtEnd) : s.mode ≠ .halted := by
  obtain ⟨hm, -⟩ := h
  simp [hm]

/-- A jump to its own address leaves the state as it was, and the tick ends with the countdown. -/
theorem State.AtEnd.step_eq (h : s.AtEnd) : step s = .next s.endTick := by
  obtain ⟨hm, -, nnn, hi, hself⟩ := h
  rw [step_of_nextInstr s hm hi]
  show endOfTick (.next (s.setPc (zextAddr nnn))) = _
  rw [hself]
  rfl

theorem State.AtEnd.endTick (h : s.AtEnd) : s.endTick.AtEnd := by
  obtain ⟨hm, herr, nnn, hi, hself⟩ := h
  have hi' : s.endTick.nextInstr = some (.jp nnn) := by
    rw [State.nextInstr_congr s.endTick_pc fun a => by rw [s.endTick_mem], hi]
  exact ⟨s.endTick_mode.trans hm, s.endTick_err.trans herr, nnn, hi', hself.trans s.endTick_pc.symm⟩

end

/-- Settles O28, by induction on the number of steps: each is one countdown. -/
theorem selfJumpOnlyCountsTimers : Obligations.SelfJumpOnlyCountsTimers := by
  intro n
  induction n with
  | zero => exact fun s h => ⟨s, rfl, h, rfl, rfl, fun f _ => .refl s f⟩
  | succ n ih =>
    intro s h
    obtain ⟨hdt₁, hst₁, hframe₁⟩ := State.endTick_counts_down h.mode_ne_halted
    obtain ⟨t, hrun, hend, hdt, hst, hframe⟩ := ih s.endTick h.endTick
    exact ⟨t, (run_succ_of_next core n h.step_eq).trans hrun, hend, by omega, by omega, hframe₁.trans hframe⟩

/-! ### Where a tick depends on its inputs (R224) -/

/-- The same answer under other inputs to come. -/
def nextWithInputs (b : List TickInput) : Result → Result
  | .next t => .next (t.withInputs b)
  | .fault f => .fault f
  | .refused r => .refused r

/-- `i` reads of this tick's inputs only what they share with those of `b`: KEYS in `Ex9E`, `ExA1` and `Fx0A`, RND in `Cxkk`
(R38, R39). -/
structure ReadsSame (i : Instr) (s : State) (b : List TickInput) : Prop where
  keys : ∀ x, i = .skp x ∨ i = .sknp x ∨ i = .ldVxK x → (s.withInputs b).keys = s.keys
  rnd : ∀ x kk, i = .rnd x kk → (s.withInputs b).rnd = s.rnd

section
variable (s : State) (b : List TickInput)

theorem State.dataAccess_withInputs (c : Nat) (e : State) :
    (s.withInputs b).dataAccess c (e.withInputs b) = nextWithInputs b (s.dataAccess c e) := by
  have hfault : (s.withInputs b).rangeFault c = s.rangeFault c := rfl
  unfold State.dataAccess
  rw [hfault]
  cases s.rangeFault c with
  | none => rfl
  | some a => rfl

/-- The loads of `Fx65` go by `I` and memory alone. -/
theorem State.regsLoaded_withInputs (x : RegIdx) : (s.withInputs b).regsLoaded x = (s.regsLoaded x).withInputs b :=
  List.foldl_hom (State.withInputs · b) fun _ _ => rfl

theorem execRet_withInputs : execRet (s.withInputs b) = nextWithInputs b (execRet s) := by
  rcases Nat.lt_or_ge 16 s.sp.toNat with habove | hle
  · rw [execRet_of_above habove]
    exact execRet_of_above (s := s.withInputs b) habove
  · rcases execRet_cases s hle with ⟨hempty, e⟩ | ⟨k, hlive, e⟩ <;> rw [e]
    · exact execRet_of_empty (s.withInputs b) hempty
    · exact execRet_of_live (s.withInputs b) k hlive

theorem execCall_withInputs (nnn : Addr) : execCall nnn (s.withInputs b) = nextWithInputs b (execCall nnn s) := by
  rcases Nat.lt_or_ge 16 s.sp.toNat with habove | hle
  · rw [execCall_of_above nnn habove]
    exact execCall_of_above (s := s.withInputs b) nnn habove
  · rcases execCall_cases s nnn hle with ⟨hfull, e⟩ | ⟨hfree, e⟩ <;> rw [e]
    · exact execCall_of_full (s.withInputs b) nnn hfull
    · exact execCall_of_free (s.withInputs b) nnn hfree

/-- The end of a tick uses the inputs up or keeps them, and looks at nothing of them. -/
theorem State.exists_endTick_withInputs : ∃ c, (s.withInputs b).endTick = s.endTick.withInputs c := by
  by_cases hm : s.mode = .halted
  · exact ⟨b, by rw [s.endTick_of_halted hm, State.endTick_of_halted (s.withInputs b) hm]⟩
  · exact ⟨b.tail, by rw [s.endTick_of_not_halted hm, State.endTick_of_not_halted (s.withInputs b) hm]; rfl⟩

variable {s b} (hkeys : (s.withInputs b).keys = s.keys)
include hkeys

theorem State.keySkip_withInputs (x : RegIdx) (wanted : Bool) :
    (s.withInputs b).keySkip x wanted = (s.keySkip x wanted).withInputs b := by
  rcases keySkip_cases s x wanted with ⟨hgt, e⟩ | ⟨hle, e⟩ <;> rw [e]
  · exact State.keySkip_of_gt (s := s.withInputs b) hgt wanted
  · rw [State.keySkip_of_le (s := s.withInputs b) hle, hkeys]
    rfl

theorem execLdVxK_withInputs (x : RegIdx) : execLdVxK x (s.withInputs b) = nextWithInputs b (execLdVxK x s) := by
  unfold execLdVxK
  rw [hkeys]
  cases lowestKey s.keys with
  | none => rfl
  | some k => rfl

theorem State.awaitStep_withInputs : (s.withInputs b).awaitStep = s.awaitStep.withInputs b := by
  unfold State.awaitStep
  rw [hkeys]
  cases lowestKey s.keys with
  | none => rfl
  | some k => rfl

end

section
variable {s : State} {b : List TickInput}

/-- Executing an instruction under other inputs, equal where it reads them, gives the same answer under those inputs. -/
theorem exec_withInputs {i : Instr} (h : ReadsSame i s b) : exec i (s.withInputs b) = nextWithInputs b (exec i s) := by
  cases i with
  | skp x => exact congrArg Host.Outcome.next (State.keySkip_withInputs (h.keys x (.inl rfl)) x true)
  | sknp x => exact congrArg Host.Outcome.next (State.keySkip_withInputs (h.keys x (.inr (.inl rfl))) x false)
  | ldVxK x => exact execLdVxK_withInputs (h.keys x (.inr (.inr rfl))) x
  | rnd x kk =>
    have hrnd : (s.withInputs b).rnd = s.rnd := h.rnd x kk rfl
    show Host.Outcome.next ((s.withInputs b).setReg x (kk &&& (s.withInputs b).rnd)).advance = _
    rw [hrnd]
    rfl
  | ret => exact execRet_withInputs s b
  | call nnn => exact execCall_withInputs s b nnn
  | drw x y n => exact s.dataAccess_withInputs b n.toNat (s.drawn x y n.toNat)
  | ldB x => exact s.dataAccess_withInputs b 3 (s.bcdStored x)
  | ldMemVx x => exact s.dataAccess_withInputs b _ (s.setMem (s.mem.load (s.effAddr 0) (s.regsUpTo x))).advance
  | ldVxMem x =>
    show (s.withInputs b).dataAccess _ ((s.withInputs b).regsLoaded x).advance = _
    rw [s.regsLoaded_withInputs b x]
    exact s.dataAccess_withInputs b _ (s.regsLoaded x).advance
  | _ => rfl

/-- A step under other inputs, equal where the tick reads them, answers the same state but for the inputs still to come. -/
theorem step_withInputs {t : State} (hkeys : s.readsKeys → (s.withInputs b).keys = s.keys)
    (hrnd : s.readsRnd → (s.withInputs b).rnd = s.rnd) (hstep : step s = .next t) :
    ∃ c, step (s.withInputs b) = .next (t.withInputs c) := by
  rcases step_cases hstep with
    ⟨hm, rfl⟩ | ⟨hm, rfl⟩ | ⟨hm, hfetch, rfl⟩ | ⟨hm, w, hfetch, hdecode, rfl⟩ | ⟨hm, w, i, u, hfetch, hdecode, he, rfl⟩
  · exact ⟨b, step_of_halted (t.withInputs b) hm⟩
  · obtain ⟨c, hc⟩ := s.awaitStep.exists_endTick_withInputs b
    refine ⟨c, (step_of_awaiting (s.withInputs b) hm).trans ?_⟩
    rw [State.awaitStep_withInputs (hkeys (.inl hm)), hc]
  · exact ⟨b, step_of_fetch_none (s.withInputs b) hm hfetch⟩
  · exact ⟨b, step_of_illegal (s.withInputs b) hm hfetch hdecode⟩
  · have hi : s.nextInstr = some i := State.nextInstr_of_decode hfetch hdecode
    have hsame : ReadsSame i s b :=
      ⟨fun x hx => hkeys (.inr ⟨hm, x, by simpa [hi] using hx⟩), fun x kk hx => hrnd ⟨hm, x, kk, by rw [hi, hx]⟩⟩
    obtain ⟨c, hc⟩ := u.exists_endTick_withInputs b
    refine ⟨c, (step_of_decode (s.withInputs b) hm hfetch hdecode).trans ?_⟩
    rw [exec_withInputs hsame, he, nextWithInputs, endOfTick, hc]

theorem State.frame_withInputs (s : State) (b : List TickInput) : FrameBut [.inputs] s (s.withInputs b) := by
  intro f hf
  cases f with
  | inputs => exact absurd (by decide) hf
  | fb => exact fun _ _ => rfl
  | v | stk | mem => exact fun _ => rfl
  | _ => rfl

end

/-- Settles O27: the step under `b` is the step under `a` with other inputs to come. -/
theorem inputsMatterOnlyWhereRead : Obligations.InputsMatterOnlyWhereRead := by
  intro s a b hkeys hrnd t hstep
  obtain ⟨c, hc⟩ := step_withInputs (s := s.withInputs a) (b := b) (fun h => (hkeys h).symm) (fun h => (hrnd h).symm) hstep
  exact ⟨_, hc, t.frame_withInputs c⟩

end Sys2Proof.Machine
end
